-- ==== Sys2Proof/Word.lean ====
section
/-! DEFINITION. The bit-vector and sequence types of the spec's notation (00_scope.md R8, R9). -/

namespace Sys2Proof

/-- A register value: 32 bits, bit 0 least significant (00_scope.md R6 REG_W, R8). -/
abbrev Word := BitVec 32

/-- A byte: 8 bits, bit 7 its most significant (00_scope.md R8). -/
abbrev Byte := BitVec 8

/-- A symbol, an integer in [0,127] (00_scope.md R6 SYM_W, R12). -/
abbrev Symbol := BitVec 7

/-- A bit sequence, first bit first; `true` is the bit 1 (00_scope.md R9). -/
abbrev Bits := List Bool

end Sys2Proof
end

