-- ==== Sys2Proof/Config.lean ====
section
/-! DEFINITION. The open parameters of the block (00_scope.md R7, 20_memory.md R68), its fixed constants, and the
one free value (20_memory.md R67). -/

namespace Sys2Proof

/-- The parameters a platform fixes for one instance: the two buffer capacities in bytes (00_scope.md R7) and the
base address of the register window (20_memory.md R68). They are a field of `State` that no step changes, so that
every statement holds for every value of them (log entry 1). -/
structure Params where
  inCap  : Nat
  outCap : Nat
  base   : Nat
  deriving DecidableEq, Repr

/-- The reference capacities of 00_scope.md R7. DESIGN CHOICE: the spec gives BASE no reference value; 0 stands for
it (log entry 2). -/
def Config.reference : Params where
  inCap  := 65536
  outCap := 65536
  base   := 0

/-- The greatest capacity, 2^28 (00_scope.md R7). -/
def Config.maxCap : Nat := 2 ^ 28

/-- The size of the register window in bytes (10_state.md R34). -/
def Config.windowBytes : Nat := 0x100

/-- The value of the ID register (10_state.md R41). -/
def Config.idValue : Word := 0x48554646#32

/-- FREE VALUE (20_memory.md R67, 93_implementation_defined.md I7): what the n-th read of a result, error, count or
window register made while BUSY = 1 returns. Nothing constrains it (log entry 7). -/
opaque Config.unspecifiedRead : Nat → Word

end Sys2Proof
end

