-- ==== Sys2Proof/Syntax.lean ====
section
/-! DEFINITION. The instructions: the nine commands of spec/opcode_table.json (30_encoding.md R92). -/

namespace Sys2Proof

/-- One constructor per row of the opcode table. No command has an operand field (30_encoding.md R91, R94). -/
inductive Instr where
  | nop
  | clear
  | analyze
  | buildTree
  | genTable
  | encode
  | pack
  | unpack
  | decode
  deriving DecidableEq, Repr

end Sys2Proof
end

