-- ==== Sys2Proof/WellFormed.lean ====
section
/-! DEFINITION. The checks on what comes from outside the machine: a command word (30_encoding.md R91, R92), and the
parameters a platform chooses (00_scope.md R7, 20_memory.md R68). -/

namespace Sys2Proof

/-- A command as syntax has no operand, so each is well formed (30_encoding.md R94). -/
def Instr.wf : Instr → Bool
  | .nop | .clear | .analyze | .buildTree | .genTable | .encode | .pack | .unpack | .decode => true

/-- RSV, bits 31:4, is 0 (30_encoding.md R91). -/
def CommandWord.reservedZero (w : Word) : Bool := w.toNat / 16 == 0

/-- OP, bits 3:0, is one of the opcodes 0x0 to 0x8 (30_encoding.md R92). -/
def CommandWord.opcodeAssigned (w : Word) : Bool := decide (w.toNat % 16 ≤ 8)

/-- A word that names a command (30_encoding.md R93: every other word is illegal). -/
def CommandWord.wf (w : Word) : Bool := CommandWord.reservedZero w && CommandWord.opcodeAssigned w

/-- 1 <= IN_CAP <= 2^28 (00_scope.md R7). -/
def Params.inCapOk (p : Params) : Bool := decide (1 ≤ p.inCap) && decide (p.inCap ≤ Config.maxCap)

/-- 1 <= OUT_CAP <= 2^28 (00_scope.md R7). -/
def Params.outCapOk (p : Params) : Bool := decide (1 ≤ p.outCap) && decide (p.outCap ≤ Config.maxCap)

/-- BASE is a multiple of 0x100 (20_memory.md R68). -/
def Params.baseOk (p : Params) : Bool := p.base % Config.windowBytes == 0

/-- The parameters meet the constraints the spec puts on them. -/
def Params.wf (p : Params) : Bool := p.inCapOk && p.outCapOk && p.baseOk

end Sys2Proof
end

