-- ==== Sys2Proof/Decode.lean ====
section
/-! DEFINITION. Decoding a command word, rejecting by name, and the encoder (30_encoding.md R90 to R93). -/

namespace Sys2Proof

/-- Why a word names no command; both complete with ILLEGAL_COMMAND (30_encoding.md R90, R93; log entry 13). -/
inductive DecodeError where
  /-- RSV, bits 31:4, is not 0. -/
  | reservedBits
  /-- OP is 0x9 to 0xF. -/
  | reservedOpcode
  deriving DecidableEq, Repr

/-- OP, bits 3:0 of the word (30_encoding.md R91). -/
def opField (w : Word) : BitVec 4 := w.extractLsb' 0 4

/-- RSV, bits 31:4 of the word (30_encoding.md R91). -/
def rsvField (w : Word) : BitVec 28 := w.extractLsb' 4 28

/-- The opcode map (30_encoding.md R90, R92). -/
def decodeOp (op : BitVec 4) : Except DecodeError Instr :=
  match op.toNat with
  | 0x0 => .ok .nop
  | 0x1 => .ok .clear
  | 0x2 => .ok .analyze
  | 0x3 => .ok .buildTree
  | 0x4 => .ok .genTable
  | 0x5 => .ok .encode
  | 0x6 => .ok .pack
  | 0x7 => .ok .unpack
  | 0x8 => .ok .decode
  | _ => .error .reservedOpcode

/-- Decode (30_encoding.md R90): reserved bits first, then the opcode. -/
def decode (w : Word) : Except DecodeError Instr :=
  if rsvField w ≠ 0#28 then .error .reservedBits else decodeOp (opField w)

/-- The OP value of each command (30_encoding.md R92). -/
def opcode : Instr → BitVec 4
  | .nop => 0x0#4
  | .clear => 0x1#4
  | .analyze => 0x2#4
  | .buildTree => 0x3#4
  | .genTable => 0x4#4
  | .encode => 0x5#4
  | .pack => 0x6#4
  | .unpack => 0x7#4
  | .decode => 0x8#4

/-- The command word: RSV = 0 in bits 31:4, OP in bits 3:0 (30_encoding.md R91). -/
def encode (i : Instr) : Word := 0#28 ++ opcode i

/-- The instruction the decoder reads from a word of the opcode table; bits above `nbits` are 0. -/
def decodeTableWord (nbits w : Nat) : Option Instr :=
  match decode (BitVec.ofNat 32 (w % 2 ^ nbits)) with
  | .ok i => some i
  | .error _ => none

end Sys2Proof
end

