-- ==== Sys2Proof/Machine/State.lean ====
section
/-! DEFINITION. The state of the block as plain data (10_state.md, 70_reset_and_hazards.md R261), the events that
move it (00_scope.md R13), and the reasons a step can stop. -/

namespace Sys2Proof.Machine

/-- How far the session has been built (10_state.md R24). -/
inductive Phase where
  | empty
  | analyzed
  | built
  | tabled
  deriving DecidableEq, Repr

/-- The ten codes ever written to ERR_CODE (60_exceptions.md R230; log entry 14). -/
inductive ErrorCode where
  | none
  | emptySource
  | invalidBitChar
  | headerNotFound
  | inOverflow
  | outOverflow
  | symbolRange
  | unassignedSymbol
  | sequence
  | illegalCommand
  deriving DecidableEq, Repr

/-- One of the 255 node slots, every field with its width (10_state.md R26). -/
structure NodeSlot where
  valid  : Bool
  leaf   : Bool
  synth  : Bool
  sym    : Symbol
  weight : Word
  left   : BitVec 8
  right  : BitVec 8
  deriving DecidableEq, Repr

/-- The reset value of a node slot (10_state.md R26). -/
def NodeSlot.empty : NodeSlot where
  valid  := false
  leaf   := false
  synth  := false
  sym    := 0
  weight := 0
  left   := 0
  right  := 0

/-- The session state S (10_state.md R21). An entry of `table` is `none` when unassigned (R29). -/
structure Session where
  count : Vector Word 128
  total : Word
  nsym  : BitVec 8
  node  : Vector NodeSlot 255
  root  : BitVec 8
  table : Vector (Option Bits) 128
  phase : Phase
  deriving DecidableEq, Repr

/-- The session after reset and after CLEAR (70_reset_and_hazards.md R261, 45_session.md R225). -/
def Session.empty : Session where
  count := Vector.replicate 128 0
  total := 0
  nsym  := 0
  node  := Vector.replicate 255 NodeSlot.empty
  root  := 0
  table := Vector.replicate 128 none
  phase := .empty

/-- What may happen next (00_scope.md R13): a host transaction at an address of the host's bus (20_memory.md R65,
R68), a turn of the core, or a reset (70_reset_and_hazards.md R260). -/
inductive Event where
  | busRead  (addr : Nat)
  | busWrite (addr : Nat) (v : Word)
  | core
  | reset
  deriving DecidableEq, Repr

/-- Everything the spec gives the block, and three fields of the model's own: `schedule`, the events still to come,
oldest first (log entry 4); `responses`, the values the host's reads returned, oldest first (log entry 6);
`drawCount`, how many free values have been drawn (log entry 7). -/
structure State where
  params      : Params
  session     : Session
  inBuf       : List Byte
  outBuf      : List Byte
  pending     : Word
  irqEn       : Bool
  busy        : Bool
  done        : Bool
  inOvf       : Bool
  hazard      : Bool
  residual    : Bool
  errCode     : ErrorCode
  errInfo     : Word
  payloadBits : Word
  padding     : Word
  idx         : BitVec 8
  drawCount   : Nat
  schedule    : List Event
  responses   : List Word
  deriving DecidableEq, Repr

/-- The reasons a step stops. Each stands only for session states that no run reaches (`Inv` of Safety.lean rules
them out); in each the model stops where the spec describes nothing, which is safe. -/
inductive Fault where
  /-- Raised by BUILD_TREE when S.nsym is not in 2 to 128 (41_tree.md R140, R146; log entry 9). Safe. -/
  | leafCountOutOfRange
  /-- Raised by GEN_TABLE and DECODE when a child index names no slot, and by GEN_TABLE when the walk does not end
  (10_state.md R26, 41_tree.md R150; log entry 10). Safe. -/
  | treeMalformed
  /-- Raised by DECODE when the root is a leaf and bits remain: the leaf step repeats without end
  (44_decode.md R203, 93_implementation_defined.md I9 "stuck"; log entry 11). Safe. -/
  | rootIsLeaf
  deriving DecidableEq, Repr

/-- No meaning for an instruction. Raised only by an arm of `exec` that has no meaning yet; safe. -/
inductive Refusal where
  /-- The instruction of this mnemonic is not modelled. -/
  | notModelled (mnemonic : String)
  deriving DecidableEq, Repr

/-- Every state element at the value of 70_reset_and_hazards.md R261, for an instance with these parameters. The
three fields of the model's own are at DESIGN CHOICE values (log entries 4, 6, 7). -/
def State.resetWith (p : Params) : State where
  params      := p
  session     := Session.empty
  inBuf       := []
  outBuf      := []
  pending     := 0
  irqEn       := false
  busy        := false
  done        := false
  inOvf       := false
  hazard      := false
  residual    := false
  errCode     := .none
  errInfo     := 0
  payloadBits := 0
  padding     := 0
  idx         := 0
  drawCount   := 0
  schedule    := []
  responses   := []

/-- The machine right after reset, at the reference parameters (00_scope.md R7). -/
def State.reset : State := State.resetWith Config.reference

end Sys2Proof.Machine
end

