-- ==== Sys2Proof/Machine/Flags.lean ====
section
/-! DEFINITION. The status flags: numbers of phases and error codes, the STATUS word, its write-one-to-clear bits,
the HAZARD flag and the interrupt line. -/

namespace Sys2Proof.Machine

/-- The 2-bit value of S.phase (10_state.md R24). -/
def phaseBits : Phase → BitVec 2
  | .empty => 0
  | .analyzed => 1
  | .built => 2
  | .tabled => 3

/-- The 8-bit value of ERR_CODE.CODE (60_exceptions.md R230). -/
def errorBits : ErrorCode → BitVec 8
  | .none => 0x00
  | .emptySource => 0x01
  | .invalidBitChar => 0x02
  | .headerNotFound => 0x03
  | .inOverflow => 0x04
  | .outOverflow => 0x05
  | .symbolRange => 0x06
  | .unassignedSymbol => 0x07
  | .sequence => 0x08
  | .illegalCommand => 0x09

/-- STATUS.ERR: 1 exactly when ERR_CODE is not 0 (10_state.md R46). -/
def State.err (s : State) : Bool := s.errCode ≠ .none

/-- The STATUS word: BUSY 0, DONE 1, ERR 2, PHASE 5:4, IN_OVF 8, HAZARD 9, RESIDUAL 10, the rest 0
(10_state.md R43). -/
def State.statusWord (s : State) : Word :=
  0#21 ++ BitVec.ofBool s.residual ++ BitVec.ofBool s.hazard ++ BitVec.ofBool s.inOvf ++ 0#2 ++
    phaseBits s.session.phase ++ 0#1 ++ BitVec.ofBool s.err ++ BitVec.ofBool s.done ++ BitVec.ofBool s.busy

/-- A write of STATUS: bit 1 clears DONE, bit 9 clears HAZARD, nothing else changes (10_state.md R43). -/
def State.writeStatus (v : Word) (s : State) : State :=
  { s with done := s.done && !v.getLsbD 1, hazard := s.hazard && !v.getLsbD 9 }

/-- A host access dropped because BUSY was 1 (10_state.md R51, 20_memory.md R66). -/
def State.setHazard (s : State) : State := { s with hazard := true }

/-- The interrupt output: IRQ_EN and DONE (60_exceptions.md R245). -/
def State.irq (s : State) : Bool := s.irqEn && s.done

end Sys2Proof.Machine
end

