-- ==== Sys2Proof/Machine/Operands.lean ====
section
/-! DEFINITION. How a command reads its operand, the whole of InBuf (30_encoding.md R94): source bytes, bit
characters, compressed bytes; and PackBits and UnpackBytes (43_pack.md R181, R185). -/

namespace Sys2Proof.Machine

/-- A source byte that is no symbol: 0x80 or above (30_encoding.md R96). -/
def outOfRange (b : Byte) : Bool := decide (0x80 ≤ b.toNat)

/-- The symbol of a source byte below 0x80 (30_encoding.md R96). -/
def symbolOf (b : Byte) : Symbol := b.setWidth 7

/-- The output byte of a symbol, `zext_8(s)` (30_encoding.md R96, R105). -/
def byteOfSymbol (s : Symbol) : Byte := s.setWidth 8

/-- A byte that is no bit character: neither 0x30 nor 0x31 (30_encoding.md R104). -/
def notBitChar (b : Byte) : Bool := b ≠ 0x30#8 && b ≠ 0x31#8

/-- The bit of a bit character (30_encoding.md R104, 43_pack.md R180). -/
def bitOfChar (b : Byte) : Bool := b = 0x31#8

/-- The bit character of a bit (30_encoding.md R104, 43_pack.md R184). -/
def charOfBit (b : Bool) : Byte := if b then 0x31#8 else 0x30#8

/-- The value of a group of bits, first bit most significant (30_encoding.md R100). -/
def valueOfBits (g : Bits) : Nat := g.foldl (fun acc b => 2 * acc + b.toNat) 0

/-- The byte of a group of 8 bits: bit m of the group is bit 7 - m of the byte (30_encoding.md R100). -/
def byteOfBits (g : Bits) : Byte := BitVec.ofNat 8 (valueOfBits g)

/-- The 8 bits of a byte, bit 7 first (30_encoding.md R101). -/
def bitsOfByte (b : Byte) : Bits := (List.range 8).map fun m => b.getLsbD (7 - m)

/-- The stream cut into groups of 8 bits, one byte each (30_encoding.md R100). A stream made by `packStream` has no
bits left over. -/
def groupBytes : Bits → List Byte
  | b0 :: b1 :: b2 :: b3 :: b4 :: b5 :: b6 :: b7 :: rest =>
    byteOfBits [b0, b1, b2, b3, b4, b5, b6, b7] :: groupBytes rest
  | _ => []

/-- The padding of a payload of `len` bits, 1 to 8 (30_encoding.md R98). -/
def padOf (len : Nat) : Nat := 8 - len % 8

/-- The header and the payload (30_encoding.md R98). -/
def packStream (P : Bits) : Bits := List.replicate (padOf P.length - 1) false ++ [true] ++ P

/-- The bytes of PackBits(P) (43_pack.md R181); its L is `P.length` and its pad is `padOf P.length`. -/
def packBytes (P : Bits) : List Byte := groupBytes (packStream P)

/-- Every byte's bits in order (43_pack.md R185). -/
def unpackStream (B : List Byte) : Bits := B.flatMap bitsOfByte

/-- UnpackBytes(B): the payload and the header length, or none when the first 8 bits hold no 1 (43_pack.md R185). -/
def unpackBytes (B : List Byte) : Option (Bits × Nat) :=
  match ((unpackStream B).take 8).findIdx? (· = true) with
  | some k => some ((unpackStream B).drop (k + 1), k + 1)
  | none => none

end Sys2Proof.Machine
end

