-- ==== Sys2Proof/Machine/Ops.lean ====
section
/-! DEFINITION. The operations every command shares: reading the session's slots and tables, completion (the
block's one way to report success or an error, 60_exceptions.md R235), and the command frame (45_session.md R220). -/

namespace Sys2Proof.Machine

/-- `S.count[s]` (10_state.md R23). -/
def Session.countOf (S : Session) (s : Symbol) : Word := (S.count[s.toNat]?).getD 0

/-- `S.table[s]` (10_state.md R29). -/
def Session.codeOf (S : Session) (s : Symbol) : Option Bits := (S.table[s.toNat]?).getD none

/-- Slot `i` of the node array; an index past 254 names no slot and reads as an invalid one (10_state.md R26, R60). -/
def slotAt (N : Vector NodeSlot 255) (i : Nat) : NodeSlot := (N[i]?).getD NodeSlot.empty

/-- `S.node[i]` (10_state.md R26). -/
def Session.slot (S : Session) (i : Nat) : NodeSlot := slotAt S.node i

/-- Every table entry unassigned (10_state.md R29). -/
def noCodes : Vector (Option Bits) 128 := Vector.replicate 128 none

/-- Which commands read and then empty InBuf (30_encoding.md R92, 45_session.md R221). -/
def consuming : Instr → Bool
  | .nop => false
  | .clear => false
  | .analyze => true
  | .buildTree => false
  | .genTable => false
  | .encode => true
  | .pack => true
  | .unpack => true
  | .decode => true

/-- The phases in which each command may run (60_exceptions.md R240). -/
def allowedIn : Instr → Phase → Bool
  | .nop, _ => true
  | .clear, _ => true
  | .analyze, _ => true
  | .buildTree, p => p ≠ .empty
  | .genTable, p => p = .built || p = .tabled
  | .encode, p => p = .tabled
  | .pack, _ => true
  | .unpack, _ => true
  | .decode, p => p = .built || p = .tabled

/-- `complete(code, info)`, the end of every command: ERR_CODE, ERR_INFO, BUSY <- 0, DONE <- 1; nothing else is
saved (60_exceptions.md R235, 45_session.md R220). -/
def State.complete (code : ErrorCode) (info : Word) (s : State) : State :=
  { s with errCode := code, errInfo := info, busy := false, done := true }

/-- `consume()`: InBuf <- [], IN_OVF <- 0 (45_session.md R221). -/
def State.consume (s : State) : State := { s with inBuf := [], inOvf := false }

/-- `consume()` when the command is consuming (45_session.md R220). -/
def State.consumeFor (i : Instr) (s : State) : State := if consuming i then s.consume else s

/-- A command that ends in an error: consumed if consuming, then completed with the error; S, OutBuf and the result
registers keep their values (45_session.md R220, 60_exceptions.md R235). -/
def State.fail (i : Instr) (code : ErrorCode) (info : Word) (s : State) : State :=
  (s.consumeFor i).complete code info

/-- The completion of a word that names no command; InBuf and IN_OVF stay (60_exceptions.md R236). -/
def State.illegal (s : State) : State := s.complete .illegalCommand s.pending

/-- `emit`: the whole output of a command appended to OutBuf (45_session.md R222). -/
def State.emit (out : List Byte) (s : State) : State := { s with outBuf := s.outBuf ++ out }

/-- The session the command's working copy has become (45_session.md R220). -/
def State.withSession (S : Session) (s : State) : State := { s with session := S }

/-- PAYLOAD_BITS and PADDING as a successful ENCODE, PACK, UNPACK or DECODE writes them (10_state.md R56). Both fit:
43_pack.md R178 (log entry 16). -/
def State.withLengths (len pad : Nat) (s : State) : State :=
  { s with payloadBits := BitVec.ofNat 32 len, padding := BitVec.ofNat 32 pad }

/-- What the body of a command gives: a working copy of the state and the output O, an error of the command, or
no end at all (a session no run reaches). -/
inductive BodyResult where
  | done (s : State) (out : List Byte)
  | raise (code : ErrorCode) (info : Word)
  | stuck (f : Fault)
  deriving DecidableEq, Repr

/-- The last part of the frame: the output check, the commit, and completion (45_session.md R220, R222; log
entry 21). -/
def finish (i : Instr) (s : State) : BodyResult → Host.Outcome State Fault Refusal
  | .stuck f => .fault f
  | .raise code info => .next (s.fail i code info)
  | .done s' out =>
    if s.params.outCap < s.outBuf.length + out.length then
      .next (s.fail i .outOverflow (BitVec.ofNat 32 out.length))
    else
      .next (((s'.emit out).consumeFor i).complete .none 0)

/-- The common command frame, in the order of 45_session.md R220 and 60_exceptions.md R237: IN_OVERFLOW, SEQUENCE,
the body, OUT_OVERFLOW, commit. `body` is run on the state the step finds. -/
def runCommand (i : Instr) (body : State → BodyResult) (s : State) : Host.Outcome State Fault Refusal :=
  if consuming i && s.inOvf then
    .next (s.fail i .inOverflow 0)
  else if allowedIn i s.session.phase then
    finish i s (body s)
  else
    .next (s.fail i .sequence ((phaseBits s.session.phase).setWidth 32))

end Sys2Proof.Machine
end

