-- ==== Sys2Proof/Machine/Bus.lean ====
section
/-! DEFINITION. The register window and the host's bus transactions (10_state.md R34 to R63, 20_memory.md R64 to
R67). -/

namespace Sys2Proof.Machine

/-- The 26 registers of the window (10_state.md R34). -/
inductive Register where
  | id
  | ctrl
  | status
  | cmd
  | errCode
  | errInfo
  | dataIn
  | dataOut
  | inCount
  | outCount
  | total
  | nsym
  | root
  | payloadBits
  | padding
  | index
  | freqCount
  | nodeInfo
  | nodeWeight
  | codeLen
  | codeBits0
  | codeBits1
  | codeBits2
  | codeBits3
  | inCap
  | outCap
  deriving DecidableEq, Repr

/-- The register at a byte offset of the window; none at an unmapped or misaligned one (10_state.md R34,
20_memory.md R64). -/
def registerAt : Nat → Option Register
  | 0x00 => some .id
  | 0x04 => some .ctrl
  | 0x08 => some .status
  | 0x0C => some .cmd
  | 0x10 => some .errCode
  | 0x14 => some .errInfo
  | 0x18 => some .dataIn
  | 0x1C => some .dataOut
  | 0x20 => some .inCount
  | 0x24 => some .outCount
  | 0x28 => some .total
  | 0x2C => some .nsym
  | 0x30 => some .root
  | 0x34 => some .payloadBits
  | 0x38 => some .padding
  | 0x3C => some .index
  | 0x40 => some .freqCount
  | 0x44 => some .nodeInfo
  | 0x48 => some .nodeWeight
  | 0x4C => some .codeLen
  | 0x50 => some .codeBits0
  | 0x54 => some .codeBits1
  | 0x58 => some .codeBits2
  | 0x5C => some .codeBits3
  | 0x60 => some .inCap
  | 0x64 => some .outCap
  | _ => none

/-- The byte offset of a register (10_state.md R34). -/
def registerOffset : Register → Nat
  | .id => 0x00
  | .ctrl => 0x04
  | .status => 0x08
  | .cmd => 0x0C
  | .errCode => 0x10
  | .errInfo => 0x14
  | .dataIn => 0x18
  | .dataOut => 0x1C
  | .inCount => 0x20
  | .outCount => 0x24
  | .total => 0x28
  | .nsym => 0x2C
  | .root => 0x30
  | .payloadBits => 0x34
  | .padding => 0x38
  | .index => 0x3C
  | .freqCount => 0x40
  | .nodeInfo => 0x44
  | .nodeWeight => 0x48
  | .codeLen => 0x4C
  | .codeBits0 => 0x50
  | .codeBits1 => 0x54
  | .codeBits2 => 0x58
  | .codeBits3 => 0x5C
  | .inCap => 0x60
  | .outCap => 0x64

/-- The symbol the window registers show, `reg[IDX][6:0]` (10_state.md R60, R63). -/
def State.windowSymbol (s : State) : Symbol := s.idx.setWidth 7

/-- The slot the window registers show, `S.node[reg[IDX]]`; index 255 shows none (10_state.md R60). -/
def State.windowSlot (s : State) : NodeSlot := s.session.slot s.idx.toNat

/-- NODE_INFO of a slot: RIGHT 31:24, LEFT 23:16, SYM 14:8, SYNTH 2, LEAF 1, VALID 0; 0 when invalid
(10_state.md R60). -/
def nodeInfoWord (nd : NodeSlot) : Word :=
  if nd.valid then
    nd.right ++ nd.left ++ 0#1 ++ nd.sym ++ 0#5 ++ BitVec.ofBool nd.synth ++ BitVec.ofBool nd.leaf ++ 1#1
  else 0

/-- NODE_WEIGHT of a slot; 0 when invalid (10_state.md R60). -/
def nodeWeightWord (nd : NodeSlot) : Word := if nd.valid then nd.weight else 0

/-- CODE_LEN of a table entry: ASSIGNED 31, LEN 6:0; 0 when unassigned (10_state.md R63). -/
def codeLenWord : Option Bits → Word
  | none => 0
  | some c => 1#1 ++ 0#24 ++ BitVec.ofNat 7 c.length

/-- CODE_BITS`j` of a table entry: bit k of the code is bit `31 - (k mod 32)` of word `k div 32`; bits past the code
are 0 (10_state.md R63). -/
def codeBitsWord (j : Nat) : Option Bits → Word
  | none => 0
  | some c => BitVec.ofNat 32 (valueOfBits ((List.range 32).map fun m => c.getD (32 * j + m) false))

/-- DATA_OUT as the front of OutBuf gives it: VALID 31, BYTE 7:0 (10_state.md R53). -/
def dataOutWord : List Byte → Word
  | [] => 0
  | b :: _ => 1#1 ++ 0#23 ++ b

/-- The value of a register when BUSY = 0 (10_state.md R36, R41 to R63); write-only registers read 0 (R35). -/
def State.registerValue (s : State) : Register → Word
  | .id => Config.idValue
  | .ctrl => 0#31 ++ BitVec.ofBool s.irqEn
  | .status => s.statusWord
  | .cmd => 0
  | .errCode => (errorBits s.errCode).setWidth 32
  | .errInfo => s.errInfo
  | .dataIn => 0
  | .dataOut => dataOutWord s.outBuf
  | .inCount => BitVec.ofNat 32 s.inBuf.length
  | .outCount => BitVec.ofNat 32 s.outBuf.length
  | .total => s.session.total
  | .nsym => s.session.nsym.setWidth 32
  | .root => s.session.root.setWidth 32
  | .payloadBits => s.payloadBits
  | .padding => s.padding
  | .index => s.idx.setWidth 32
  | .freqCount => s.session.countOf s.windowSymbol
  | .nodeInfo => nodeInfoWord s.windowSlot
  | .nodeWeight => nodeWeightWord s.windowSlot
  | .codeLen => codeLenWord (s.session.codeOf s.windowSymbol)
  | .codeBits0 => codeBitsWord 0 (s.session.codeOf s.windowSymbol)
  | .codeBits1 => codeBitsWord 1 (s.session.codeOf s.windowSymbol)
  | .codeBits2 => codeBitsWord 2 (s.session.codeOf s.windowSymbol)
  | .codeBits3 => codeBitsWord 3 (s.session.codeOf s.windowSymbol)
  | .inCap => BitVec.ofNat 32 s.params.inCap
  | .outCap => BitVec.ofNat 32 s.params.outCap

/-- The registers a read finds exact while BUSY = 1; CMD and DATA_IN read 0 as ever (20_memory.md R66). -/
def exactWhileBusy : Register → Bool
  | .id | .ctrl | .status | .index | .inCap | .outCap | .cmd | .dataIn => true
  | _ => false

/-- The front byte of OutBuf removed (10_state.md R53). -/
def State.popOut (s : State) : State := { s with outBuf := s.outBuf.tail }

/-- One free value drawn (20_memory.md R67; log entry 7). -/
def State.drawn (s : State) : State := { s with drawCount := s.drawCount + 1 }

/-- BusRead of a mapped register (10_state.md R36, R53; while BUSY = 1, 20_memory.md R66, R67). -/
def readRegister (r : Register) (s : State) : Word × State :=
  if s.busy then
    if exactWhileBusy r then (s.registerValue r, s)
    else if r = .dataOut then (0, s.setHazard)
    else (Config.unspecifiedRead s.drawCount, s.drawn)
  else if r = .dataOut then (s.registerValue .dataOut, s.popOut)
  else (s.registerValue r, s)

/-- A CMD write: accepted when BUSY = 0, else dropped with HAZARD set (10_state.md R47). -/
def State.writeCmd (v : Word) (s : State) : State :=
  if s.busy then s.setHazard else { s with pending := v, busy := true, done := false }

/-- A DATA_IN write: `v[7:0]` appended, or IN_OVF set when InBuf is full; dropped with HAZARD set while BUSY = 1
(10_state.md R52). -/
def State.writeDataIn (v : Word) (s : State) : State :=
  if s.busy then s.setHazard
  else if s.inBuf.length < s.params.inCap then { s with inBuf := s.inBuf ++ [v.setWidth 8] }
  else { s with inOvf := true }

/-- A CTRL write: bit 0 is IRQ_EN (10_state.md R42). -/
def State.writeCtrl (v : Word) (s : State) : State := { s with irqEn := v.getLsbD 0 }

/-- An INDEX write: bits 7:0 are IDX (10_state.md R59). -/
def State.writeIndex (v : Word) (s : State) : State := { s with idx := v.setWidth 8 }

/-- BusWrite of a mapped register; a write of a read-only register is ignored (10_state.md R35, 20_memory.md R66). -/
def writeRegister (r : Register) (v : Word) (s : State) : State :=
  match r with
  | .ctrl => s.writeCtrl v
  | .status => s.writeStatus v
  | .cmd => s.writeCmd v
  | .dataIn => s.writeDataIn v
  | .index => s.writeIndex v
  | .id | .errCode | .errInfo | .dataOut | .inCount | .outCount | .total | .nsym | .root | .payloadBits | .padding
  | .freqCount | .nodeInfo | .nodeWeight | .codeLen | .codeBits0 | .codeBits1 | .codeBits2 | .codeBits3 | .inCap
  | .outCap => s

/-- BusRead(off): an unmapped offset reads 0 and changes nothing (20_memory.md R64, R65). -/
def busRead (off : Nat) (s : State) : Word × State :=
  match registerAt off with
  | none => (0, s)
  | some r => readRegister r s

/-- BusWrite(off, v): an unmapped offset changes nothing (20_memory.md R64, R65). -/
def busWrite (off : Nat) (v : Word) (s : State) : State :=
  match registerAt off with
  | none => s
  | some r => writeRegister r v s

/-- The window offset of an address of the host's bus; none below BASE (20_memory.md R68; log entry 3). -/
def offsetOf (p : Params) (addr : Nat) : Option Nat := if p.base ≤ addr then some (addr - p.base) else none

/-- A host read: the value BusRead returns goes to the host (20_memory.md R65, R68; log entries 3, 6). -/
def hostRead (addr : Nat) (s : State) : State :=
  let a := match offsetOf s.params addr with
    | none => (0, s)
    | some off => busRead off s
  { a.2 with responses := a.2.responses ++ [a.1] }

/-- A host write (20_memory.md R65, R68; log entry 3). -/
def hostWrite (addr : Nat) (v : Word) (s : State) : State :=
  match offsetOf s.params addr with
  | none => s
  | some off => busWrite off v s

/-- The reset event: every state element to its reset value at once; a pending command is dropped
(70_reset_and_hazards.md R260). The parameters are constant (R261), and the model's own fields are the host's side,
which a reset of the block does not change (log entry 8). -/
def resetEvent (s : State) : State :=
  { State.resetWith s.params with
    drawCount := s.drawCount, schedule := s.schedule, responses := s.responses }

end Sys2Proof.Machine
end

