-- ==== Sys2Proof/Machine/Analyze.lean ====
section
/-! DEFINITION. ANALYZE, the frequency analyzer (40_analyze.md). -/

namespace Sys2Proof.Machine

/-- A FrequencyRecord: a symbol, its weight, and whether it is the synthetic one (00_scope.md R12,
40_analyze.md R120). -/
structure FreqRecord where
  sym    : Symbol
  weight : Word
  synth  : Bool
  deriving DecidableEq, Repr

/-- The number of occurrences of the symbol with value `s` in the source (40_analyze.md R121). -/
def occurrences (src : List Byte) (s : Nat) : Nat := src.count (BitVec.ofNat 8 s)

/-- The 128 counts (40_analyze.md R121). -/
def countVector (src : List Byte) : Vector Word 128 :=
  Vector.ofFn fun s : Fin 128 => BitVec.ofNat 32 (occurrences src s.val)

/-- One record per symbol that occurs, in ascending symbol order (40_analyze.md R120, R122). -/
def symbolRecords (src : List Byte) : List FreqRecord :=
  ((List.range 128).filter fun s => decide (0 < occurrences src s)).map fun s =>
    { sym := BitVec.ofNat 7 s, weight := BitVec.ofNat 32 (occurrences src s), synth := false }

/-- The order of the sort: by weight alone (40_analyze.md R122, R127). -/
def lighter (a b : FreqRecord) : Bool := decide (a.weight.toNat ≤ b.weight.toNat)

/-- Stable sort, ascending by weight: insertion of each record before the first one not lighter than it, the last
record first, so records of equal weight keep their order (40_analyze.md R122). -/
def sortRecords (recs : List FreqRecord) : List FreqRecord :=
  recs.insertionSort fun a b => lighter a b = true

/-- The second record of a source with one distinct symbol, put first (40_analyze.md R126). -/
def addSynthetic : List FreqRecord → List FreqRecord
  | [r] => [{ sym := r.sym + 1, weight := 0, synth := true }, r]
  | recs => recs

/-- The sorted frequency sequence (40_analyze.md R120, R122, R126). -/
def sortedRecords (src : List Byte) : List FreqRecord := addSynthetic (sortRecords (symbolRecords src))

/-- The leaf slot of a record (40_analyze.md R120). -/
def leafSlot (r : FreqRecord) : NodeSlot where
  valid  := true
  leaf   := true
  synth  := r.synth
  sym    := r.sym
  weight := r.weight
  left   := 0xFF
  right  := 0xFF

/-- The leaves in slots 0 to nsym-1, every other slot invalid (40_analyze.md R120, 10_state.md R27). -/
def leafNodes (recs : List FreqRecord) : Vector NodeSlot 255 :=
  Vector.ofFn fun i : Fin 255 => (recs[i.val]?.map leafSlot).getD NodeSlot.empty

/-- The whole session a successful ANALYZE commits (40_analyze.md R120, R129). -/
def analyzedSession (src : List Byte) : Session where
  count := countVector src
  total := BitVec.ofNat 32 src.length
  nsym  := BitVec.ofNat 8 (sortedRecords src).length
  node  := leafNodes (sortedRecords src)
  root  := 0
  table := noCodes
  phase := .analyzed

/-- The body of ANALYZE: EMPTY_SOURCE, then SYMBOL_RANGE at the lowest index (40_analyze.md R120, R123, R124). -/
def analyzeBody (s : State) : BodyResult :=
  if s.inBuf = [] then .raise .emptySource 0
  else
    match s.inBuf.findIdx? outOfRange with
    | some i => .raise .symbolRange (BitVec.ofNat 32 i)
    | none => .done (s.withSession (analyzedSession s.inBuf)) []

/-- ANALYZE (40_analyze.md R120). -/
def execAnalyze (s : State) : Host.Outcome State Fault Refusal := runCommand .analyze analyzeBody s

end Sys2Proof.Machine
end

