-- ==== Sys2Proof/Machine/Packer.lean ====
section
/-! DEFINITION. ENCODE, PACK and UNPACK (43_pack.md). -/

namespace Sys2Proof.Machine

/-- The payload of a source: the codes of its symbols in order, or the error of the first failing byte, whose index
counts on from `i` (43_pack.md R175, R176). -/
def payloadOf (S : Session) : Nat → List Byte → Except (ErrorCode × Nat) Bits
  | _, [] => .ok []
  | i, b :: src =>
    if outOfRange b then .error (.symbolRange, i)
    else
      match S.codeOf (symbolOf b) with
      | none => .error (.unassignedSymbol, i)
      | some c =>
        match payloadOf S (i + 1) src with
        | .ok P => .ok (c ++ P)
        | .error e => .error e

/-- A body that emits PackBits(P) and writes L and pad (43_pack.md R175, R180, R181). -/
def packResult (s : State) (P : Bits) : BodyResult :=
  .done (s.withLengths P.length (padOf P.length)) (packBytes P)

/-- The body of ENCODE (43_pack.md R175). -/
def encodeBody (s : State) : BodyResult :=
  if s.inBuf = [] then .raise .emptySource 0
  else
    match payloadOf s.session 0 s.inBuf with
    | .error (code, i) => .raise code (BitVec.ofNat 32 i)
    | .ok P => packResult s P

/-- The body of PACK (43_pack.md R180, R182). -/
def packBody (s : State) : BodyResult :=
  match s.inBuf.findIdx? notBitChar with
  | some i => .raise .invalidBitChar (BitVec.ofNat 32 i)
  | none => packResult s (s.inBuf.map bitOfChar)

/-- The body of UNPACK (43_pack.md R184, R186). -/
def unpackBody (s : State) : BodyResult :=
  match unpackBytes s.inBuf with
  | none => .raise .headerNotFound 0
  | some (P, h) => .done (s.withLengths P.length h) (P.map charOfBit)

/-- ENCODE (43_pack.md R175). -/
def execEncode (s : State) : Host.Outcome State Fault Refusal := runCommand .encode encodeBody s

/-- PACK (43_pack.md R180). -/
def execPack (s : State) : Host.Outcome State Fault Refusal := runCommand .pack packBody s

/-- UNPACK (43_pack.md R184). -/
def execUnpack (s : State) : Host.Outcome State Fault Refusal := runCommand .unpack unpackBody s

end Sys2Proof.Machine
end

