-- ==== Sys2Proof/Machine/SessionCommands.lean ====
section
/-! DEFINITION. NOP and CLEAR (45_session.md R223, R225). -/

namespace Sys2Proof.Machine

/-- NOP: the body does nothing (45_session.md R223). -/
def nopBody (s : State) : BodyResult := .done s []

/-- CLEAR: the session, both buffers, IN_OVF, HAZARD, RESIDUAL and the result registers to their reset values; CTRL
and INDEX are not written (45_session.md R225). -/
def State.cleared (s : State) : State :=
  { s with
    session := Session.empty, inBuf := [], outBuf := [], inOvf := false, hazard := false, residual := false,
    payloadBits := 0, padding := 0 }

/-- The body of CLEAR (45_session.md R225). -/
def clearBody (s : State) : BodyResult := .done s.cleared []

/-- NOP (45_session.md R223). -/
def execNop (s : State) : Host.Outcome State Fault Refusal := runCommand .nop nopBody s

/-- CLEAR (45_session.md R225). -/
def execClear (s : State) : Host.Outcome State Fault Refusal := runCommand .clear clearBody s

end Sys2Proof.Machine
end

