-- ==== Sys2Proof/Machine/Table.lean ====
section
/-! DEFINITION. GEN_TABLE, the code table generator (42_table.md). -/

namespace Sys2Proof.Machine

/-- The leaves below slot `i` with their paths, `p` being the path to `i`: left appends 0, right appends 1
(42_table.md R161; a recursive depth-first traversal, log entry 15). `fuel` bounds the depth; none when it runs out
or an index names no slot, which no tree of BUILD_TREE does (41_tree.md R150; log entry 10). -/
def leafPaths (N : Vector NodeSlot 255) : Nat → Nat → Bits → Option (List (Symbol × Bits))
  | 0, _, _ => none
  | fuel + 1, i, p =>
    match N[i]? with
    | none => none
    | some nd =>
      if nd.leaf then some [(nd.sym, p)]
      else
        match leafPaths N fuel nd.left.toNat (p ++ [false]), leafPaths N fuel nd.right.toNat (p ++ [true]) with
        | some a, some b => some (a ++ b)
        | _, _ => none

/-- Each path assigned to its leaf's symbol slot (42_table.md R162). -/
def assignCodes (paths : List (Symbol × Bits)) : Vector (Option Bits) 128 :=
  paths.foldl (fun T e => T.setIfInBounds e.1.toNat (some e.2)) noCodes

/-- The code table of the tree with this root (42_table.md R160). A child's slot is below its parent's
(41_tree.md R150 (f)), so a depth of 255 is enough. -/
def codeTable (N : Vector NodeSlot 255) (root : Nat) : Option (Vector (Option Bits) 128) :=
  (leafPaths N 255 root []).map assignCodes

/-- The body of GEN_TABLE (42_table.md R160). -/
def genTableBody (s : State) : BodyResult :=
  match codeTable s.session.node s.session.root.toNat with
  | some T => .done (s.withSession { s.session with table := T, phase := .tabled }) []
  | none => .stuck .treeMalformed

/-- GEN_TABLE (42_table.md R160). -/
def execGenTable (s : State) : Host.Outcome State Fault Refusal := runCommand .genTable genTableBody s

end Sys2Proof.Machine
end

