-- ==== Sys2Proof/Machine/Tree.lean ====
section
/-! DEFINITION. BUILD_TREE, the tree builder (41_tree.md). -/

namespace Sys2Proof.Machine

/-- The working state of the dual-queue merge (41_tree.md R140, R141): the working copy of the slots, the next free
slot, the two FIFO queues of slot indices (head first), and the tentative root. -/
structure MergeState where
  node   : Vector NodeSlot 255
  next   : Nat
  source : List Nat
  target : List Nat
  root   : Nat
  deriving DecidableEq, Repr

/-- The weight of slot `i` of the working copy (41_tree.md R143). -/
def MergeState.weight (q : MergeState) (i : Nat) : Word := (slotAt q.node i).weight

/-- The slot of an internal node (41_tree.md R140; 10_state.md R26: its symbol is 0). -/
def internalSlot (weight : Word) (l r : Nat) : NodeSlot where
  valid  := true
  leaf   := false
  synth  := false
  sym    := 0
  weight := weight
  left   := BitVec.ofNat 8 l
  right  := BitVec.ofNat 8 r

/-- `merge(l, r)`, enqueued into target and recorded as the tentative root: the next free slot gets the sum of the
weights, `l` as its left child and `r` as its right (41_tree.md R140, R144; log entry 12). -/
def MergeState.merge (q : MergeState) (l r : Nat) : MergeState :=
  { q with
    node := q.node.setIfInBounds q.next (internalSlot (q.weight l + q.weight r) l r)
    next := q.next + 1
    target := q.target ++ [q.next]
    root := q.next }

/-- `take()`: from source when target is empty, from target when source is empty, else the head of lower weight,
source on ties; none when both are empty (41_tree.md R140, R143). -/
def MergeState.take (q : MergeState) : Option (Nat × MergeState) :=
  match q.target, q.source with
  | [], [] => none
  | [], x :: source => some (x, { q with source := source })
  | t :: target, [] => some (t, { q with target := target })
  | t :: target, x :: source =>
    if (q.weight x).toNat ≤ (q.weight t).toNat then some (x, { q with source := source })
    else some (t, { q with target := target })

/-- The loop's end: source is empty and target holds one node (41_tree.md R145). -/
def MergeState.finished (q : MergeState) : Bool := q.source.isEmpty && decide (q.target.length ≤ 1)

/-- The main loop (41_tree.md R140, R145), with fuel for its iterations; none when the fuel or a queue runs out. -/
def mergeLoop : Nat → MergeState → Option MergeState
  | 0, q => if q.finished then some q else none
  | fuel + 1, q =>
    if q.finished then some q
    else
      match q.take with
      | none => none
      | some (l, q1) =>
        match q1.take with
        | none => none
        | some (r, q2) => mergeLoop fuel (q2.merge l r)

/-- The queues before the seed step: every leaf in source, in order; target empty (41_tree.md R140, R141). -/
def mergeStart (S : Session) : MergeState where
  node   := S.node
  next   := S.nsym.toNat
  source := List.range S.nsym.toNat
  target := []
  root   := 0

/-- The seed step: the first two of source are merged, the first as the left child (41_tree.md R142). -/
def seedStep (q : MergeState) : Option MergeState :=
  match q.source with
  | a :: b :: source => some ({ q with source := source }.merge a b)
  | _ => none

/-- The slots from `next` on made invalid (41_tree.md R140, commit). -/
def clearFrom (next : Nat) (N : Vector NodeSlot 255) : Vector NodeSlot 255 :=
  Vector.ofFn fun i : Fin 255 => if i.val < next then N[i] else NodeSlot.empty

/-- The session BUILD_TREE commits: the tree's slots, the root, no codes, phase BUILT (41_tree.md R140, R148). -/
def builtSession (S : Session) (q : MergeState) : Session :=
  { S with
    node := clearFrom q.next q.node
    root := BitVec.ofNat 8 q.root
    table := noCodes
    phase := .built }

/-- BUILD_TREE on the session's leaves (41_tree.md R140), for 2 to 128 of them; none for another leaf count, which
no run reaches (41_tree.md R146; log entry 9). An iteration takes one slot, so `nsym` of them are enough. -/
def buildTree (S : Session) : Option Session :=
  if 2 ≤ S.nsym.toNat ∧ S.nsym.toNat ≤ 128 then
    match seedStep (mergeStart S) with
    | none => none
    | some q =>
      match mergeLoop S.nsym.toNat q with
      | none => none
      | some q' => some (builtSession S q')
  else none

/-- The body of BUILD_TREE (41_tree.md R140). -/
def buildTreeBody (s : State) : BodyResult :=
  match buildTree s.session with
  | some S => .done (s.withSession S) []
  | none => .stuck .leafCountOutOfRange

/-- BUILD_TREE (41_tree.md R140). -/
def execBuildTree (s : State) : Host.Outcome State Fault Refusal := runCommand .buildTree buildTreeBody s

end Sys2Proof.Machine
end

