-- ==== Sys2Proof/Machine/Walker.lean ====
section
/-! DEFINITION. DECODE, the bit unpacker and tree walker (44_decode.md). -/

namespace Sys2Proof.Machine

/-- The cursor of the tree walker: `ptr`, the bits from index `idx` on, and the symbols emitted (44_decode.md R200,
R201). -/
structure Cursor where
  ptr  : Nat
  rest : Bits
  out  : List Symbol
  deriving DecidableEq, Repr

/-- One evaluation of the transition rule while unread bits remain: an internal node consumes the bit, a leaf emits
its symbol and resets to the root without consuming (44_decode.md R202). -/
def walkStep (root : Nat) (nd : NodeSlot) (c : Cursor) (b : Bool) (rest : Bits) : Cursor :=
  if nd.leaf then { c with ptr := root, out := c.out ++ [nd.sym] }
  else { c with ptr := (if b then nd.right else nd.left).toNat, rest := rest }

/-- The walk (44_decode.md R200): at most `fuel` steps. Fuel that runs out with bits left is the endless leaf step of
a root that is a leaf (44_decode.md R203, 93_implementation_defined.md I9; log entry 11). -/
def walk (N : Vector NodeSlot 255) (root : Nat) : Nat → Cursor → Except Fault Cursor
  | 0, c => if c.rest = [] then .ok c else .error .rootIsLeaf
  | fuel + 1, c =>
    match c.rest with
    | [] => .ok c
    | b :: rest =>
      match N[c.ptr]? with
      | none => .error .treeMalformed
      | some nd => walk N root fuel (walkStep root nd c b rest)

/-- The symbols of the whole walk, with the final flush of a leaf reached by the last bit (44_decode.md R205). -/
def flushed (nd : NodeSlot) (c : Cursor) : List Symbol := if nd.leaf then c.out ++ [nd.sym] else c.out

/-- RESIDUAL: the bits ran out on an internal node other than the root (44_decode.md R204). -/
def residualOf (root : Nat) (nd : NodeSlot) (c : Cursor) : Bool := !nd.leaf && decide (c.ptr ≠ root)

/-- Walk, flush and residual of a payload from the root (44_decode.md R200); the loop makes at most `2 * len(P)`
steps (R203). -/
def decodePayload (N : Vector NodeSlot 255) (root : Nat) (P : Bits) : Except Fault (List Symbol × Bool) :=
  match walk N root (2 * P.length) { ptr := root, rest := P, out := [] } with
  | .error f => .error f
  | .ok c =>
    match N[c.ptr]? with
    | none => .error .treeMalformed
    | some nd => .ok (flushed nd c, residualOf root nd c)

/-- The body of DECODE (44_decode.md R200, R204). -/
def decodeBody (s : State) : BodyResult :=
  match unpackBytes s.inBuf with
  | none => .raise .headerNotFound 0
  | some (P, h) =>
    match decodePayload s.session.node s.session.root.toNat P with
    | .error f => .stuck f
    | .ok (out, residual) =>
      .done { s.withLengths P.length h with residual := residual } (out.map byteOfSymbol)

/-- DECODE (44_decode.md R200). -/
def execDecode (s : State) : Host.Outcome State Fault Refusal := runCommand .decode decodeBody s

end Sys2Proof.Machine
end

