-- ==== Sys2Proof/Machine/Step.lean ====
section
/-! DEFINITION. One step of the machine: the next event of the schedule, or the core's turn when the schedule is
empty (00_scope.md R13, 20_memory.md R75, 45_session.md R220). -/

namespace Sys2Proof.Machine

/-- The core's step on the pending word: the command it names, or ILLEGAL_COMMAND (45_session.md R220,
30_encoding.md R90). -/
def coreStep (s : State) : Host.Outcome State Fault Refusal :=
  match decode s.pending with
  | .ok i => exec i s
  | .error _ => .next s.illegal

/-- A turn of the core: a step exactly when BUSY = 1, else nothing (45_session.md R220, 60_exceptions.md R255;
log entry 5). -/
def coreTurn (s : State) : Host.Outcome State Fault Refusal :=
  if s.busy then coreStep s else .next s

/-- One event (00_scope.md R13). -/
def perform (e : Event) (s : State) : Host.Outcome State Fault Refusal :=
  match e with
  | .busRead addr => .next (hostRead addr s)
  | .busWrite addr v => .next (hostWrite addr v s)
  | .core => coreTurn s
  | .reset => .next (resetEvent s)

/-- One step: the oldest event of the schedule; with none left, a turn of the core (log entry 4). -/
def step (s : State) : Host.Outcome State Fault Refusal :=
  match s.schedule with
  | [] => coreTurn s
  | e :: rest => perform e { s with schedule := rest }

/-- `s` with the word `w` accepted as the pending command and the core's turn next, as a CMD write followed by a core
step would have it (10_state.md R47; log entry 17). The bits above `nbits` are 0. -/
def State.withFetchWord (s : State) (nbits w : Nat) : State :=
  { s with
    pending := BitVec.ofNat 32 (w % 2 ^ nbits), busy := true, done := false, schedule := .core :: s.schedule }

end Sys2Proof.Machine
end

