-- ==== Sys2Proof/Safety.lean ====
section
/-! DEFINITION. What counts as a safe state, and the words the statements use: the session invariants of
40_analyze.md and 41_tree.md, paths in the tree, probabilities, and the byte and bit order of 30_encoding.md written
as the spec writes it. -/

namespace Sys2Proof.Machine

/-- The order of the sorted frequency sequence: by weight, ties by symbol value (40_analyze.md R122). -/
abbrev slotBefore (a b : NodeSlot) : Prop :=
  a.weight.toNat < b.weight.toNat ∨ a.weight = b.weight ∧ a.sym.toNat < b.sym.toNat

/-- What a successful ANALYZE leaves in the session, of a source of at most `cap` bytes: the counts, and the sorted
records in the leaf slots (40_analyze.md R122, R126, R128, R130; 10_state.md R25, R27). -/
structure LeavesOk (cap : Nat) (S : Session) : Prop where
  nsym_ge : 2 ≤ S.nsym.toNat
  nsym_le : S.nsym.toNat ≤ 128
  total_pos : 1 ≤ S.total.toNat
  total_le : S.total.toNat ≤ cap
  leaf : ∀ i < S.nsym.toNat, (S.slot i).valid = true ∧ (S.slot i).leaf = true ∧ (S.slot i).left = 0xFF#8 ∧
    (S.slot i).right = 0xFF#8
  ordered : ∀ j < S.nsym.toNat, ∀ i < j, slotBefore (S.slot i) (S.slot j)
  weight_count : ∀ i < S.nsym.toNat, (S.slot i).weight = S.countOf (S.slot i).sym
  synth_iff : ∀ i < S.nsym.toNat, ((S.slot i).synth = true ↔ (S.slot i).weight = 0)
  synth_first : ∀ i < S.nsym.toNat, (S.slot i).synth = true →
    S.nsym.toNat = 2 ∧ i = 0 ∧ (S.slot 0).sym = (S.slot 1).sym + 1
  covered : ∀ c < 128, S.countOf (BitVec.ofNat 7 c) = 0 ∨
    ∃ i ∈ List.range S.nsym.toNat, (S.slot i).sym = BitVec.ofNat 7 c
  leaf_sum : ((List.range S.nsym.toNat).map fun i => (S.slot i).weight.toNat).sum = S.total.toNat

/-- No slot from `k` on holds a node (10_state.md R27). -/
abbrev unusedFrom (S : Session) (k : Nat) : Prop := ∀ j < 255, k ≤ j → S.slot j = NodeSlot.empty

/-- The children of the internal slots, in slot order. -/
def Session.children (S : Session) : List Nat :=
  (List.range' S.nsym.toNat (S.nsym.toNat - 1)).flatMap fun k => [(S.slot k).left.toNat, (S.slot k).right.toNat]

/-- Slot `j` is a node not yet merged when internal slot `k` is made (41_tree.md R140, R141). -/
abbrev Waiting (S : Session) (k j : Nat) : Prop :=
  j < k ∧ ∀ m < k, S.nsym.toNat ≤ m → (S.slot m).left.toNat ≠ j ∧ (S.slot m).right.toNat ≠ j

/-- Of two waiting nodes `x` goes first: by weight, a leaf before an internal node of its weight, and two leaves or
two internal nodes in slot order, which is the order of their queue (41_tree.md R141, R142, R143, R147). -/
abbrev TakenBefore (S : Session) (x j : Nat) : Prop :=
  (S.slot x).weight.toNat ≤ (S.slot j).weight.toNat ∧
  (S.nsym.toNat ≤ x → j < S.nsym.toNat → (S.slot x).weight.toNat < (S.slot j).weight.toNat) ∧
  ((x < S.nsym.toNat ↔ j < S.nsym.toNat) → x < j)

/-- What a successful BUILD_TREE leaves in the session, beside the leaves (41_tree.md R145, R150; 10_state.md R26 to
R28). `parents`: every slot but the root is the child of exactly one internal slot. -/
structure TreeOk (S : Session) : Prop where
  root_slot : S.root.toNat = 2 * S.nsym.toNat - 2
  inner : ∀ k < 2 * S.nsym.toNat - 1, S.nsym.toNat ≤ k →
    (S.slot k).valid = true ∧ (S.slot k).leaf = false ∧ (S.slot k).synth = false ∧ (S.slot k).sym = 0#7 ∧
    (S.slot k).left.toNat < k ∧ (S.slot k).right.toNat < k ∧
    (S.slot k).weight.toNat =
      (S.slot (S.slot k).left.toNat).weight.toNat + (S.slot (S.slot k).right.toNat).weight.toNat
  parents : S.children.Perm (List.range (2 * S.nsym.toNat - 2))
  root_weight : (S.slot S.root.toNat).weight = S.total
  unused : unusedFrom S (2 * S.nsym.toNat - 1)

/-- The session in each phase (10_state.md R24, R28, R29). -/
def SessionOk (cap : Nat) (S : Session) : Prop :=
  match S.phase with
  | .empty => S = Session.empty
  | .analyzed => LeavesOk cap S ∧ S.root = 0 ∧ unusedFrom S S.nsym.toNat ∧ S.table = noCodes
  | .built => LeavesOk cap S ∧ TreeOk S ∧ S.table = noCodes
  | .tabled => LeavesOk cap S ∧ TreeOk S ∧ codeTable S.node S.root.toNat = some S.table

/-- The invariant of the machine: the parameters meet their constraints (00_scope.md R7, 20_memory.md R68), the
buffers their capacities (10_state.md R30, R31), the session its phase; DONE and BUSY are never both 1 (R44, R45);
IN_OVF stands only over a full InBuf (R50); ERR_INFO is 0 on success (R49); the result registers fit
(43_pack.md R178) and L + padding is a multiple of 8 (30_encoding.md R98). -/
structure Inv (s : State) : Prop where
  params : s.params.wf = true
  inBuf_le : s.inBuf.length ≤ s.params.inCap
  outBuf_le : s.outBuf.length ≤ s.params.outCap
  session : SessionOk s.params.inCap s.session
  busy_done : s.busy = true → s.done = false
  overflow : s.inOvf = true → s.inBuf.length = s.params.inCap
  no_info : s.errCode = .none → s.errInfo = 0
  payload_lt : s.payloadBits.toNat < 2 ^ 31
  padding_le : s.padding.toNat ≤ 8
  aligned : (s.payloadBits.toNat + s.padding.toNat) % 8 = 0

/-- The slot reached from slot `i` by a bit sequence, 0 for left and 1 for right; none when it would leave a leaf
(42_table.md R161, 30_encoding.md R106). -/
def follow (N : Vector NodeSlot 255) : Nat → Bits → Option Nat
  | i, [] => some i
  | i, b :: c =>
    match N[i]? with
    | none => none
    | some nd => if nd.leaf then none else follow N (if b then nd.right else nd.left).toNat c

/-- `c` is the path from the root to a leaf that holds `sym` (42_table.md R161). -/
def IsPathOf (S : Session) (c : Bits) (sym : Symbol) : Prop :=
  ∃ i, follow S.node S.root.toNat c = some i ∧ (S.slot i).leaf = true ∧ (S.slot i).sym = sym

/-- The leaf slots that are not synthetic (40_analyze.md R126, R130). -/
def Session.realLeaves (S : Session) : List Nat :=
  (List.range S.nsym.toNat).filter fun i => !(S.slot i).synth

/-- The probability a slot's weight stands for, an exact rational (10_state.md R61). -/
def Session.probability (S : Session) (i : Nat) : ℚ := (S.slot i).weight.toNat / S.total.toNat

/-- `L + padding` bits as 30_encoding.md R98 writes them. -/
def specStream (P : Bits) : Bits := List.replicate (8 - P.length % 8 - 1) false ++ [true] ++ P

/-- The compressed bytes of a payload: byte j is the sum over m of stream[8j + m] * 2^(7 - m) (30_encoding.md R100,
43_pack.md R181). -/
def specPack (P : Bits) : List Byte :=
  (List.range (P.length / 8 + 1)).map fun j =>
    BitVec.ofNat 8 (((List.range 8).map fun m => ((specStream P).getD (8 * j + m) false).toNat * 2 ^ (7 - m)).sum)

/-- The bits of a byte sequence: byte j gives bits 7 down to 0 at positions 8j to 8j + 7 (30_encoding.md R101). -/
def specUnpack (B : List Byte) : Bits :=
  (List.range (8 * B.length)).map fun k => (B.getD (k / 8) 0).getLsbD (7 - k % 8)

/-- The bit characters of a bit sequence (30_encoding.md R104). -/
def bitChars (P : Bits) : List Byte := P.map fun b => if b then 0x31#8 else 0x30#8

/-- The phase a command leaves behind on success, or none where it may not run (60_exceptions.md R240). -/
def phaseAfter : Instr → Phase → Option Phase
  | .nop, p => some p
  | .clear, _ => some .empty
  | .analyze, _ => some .analyzed
  | .buildTree, .empty => none
  | .buildTree, _ => some .built
  | .genTable, .built => some .tabled
  | .genTable, .tabled => some .tabled
  | .genTable, _ => none
  | .encode, .tabled => some .tabled
  | .encode, _ => none
  | .pack, p => some p
  | .unpack, p => some p
  | .decode, .built => some .built
  | .decode, .tabled => some .tabled
  | .decode, _ => none

/-- The value of a phase (10_state.md R24). -/
def phaseNumber : Phase → Nat
  | .empty => 0
  | .analyzed => 1
  | .built => 2
  | .tabled => 3

/-- The value of an error code (60_exceptions.md R230). -/
def errorNumber : ErrorCode → Nat
  | .none => 0
  | .emptySource => 1
  | .invalidBitChar => 2
  | .headerNotFound => 3
  | .inOverflow => 4
  | .outOverflow => 5
  | .symbolRange => 6
  | .unassignedSymbol => 7
  | .sequence => 8
  | .illegalCommand => 9

/-- The commands that raise an error code (60_exceptions.md R230); ILLEGAL_COMMAND belongs to words that name no
command, and NONE to all. -/
def raisedBy : ErrorCode → List Instr
  | .none => [.nop, .clear, .analyze, .buildTree, .genTable, .encode, .pack, .unpack, .decode]
  | .emptySource => [.analyze, .encode]
  | .invalidBitChar => [.pack]
  | .headerNotFound => [.unpack, .decode]
  | .inOverflow => [.analyze, .encode, .pack, .unpack, .decode]
  | .outOverflow => [.encode, .pack, .unpack, .decode]
  | .symbolRange => [.analyze, .encode]
  | .unassignedSymbol => [.encode]
  | .sequence => [.buildTree, .genTable, .encode, .decode]
  | .illegalCommand => []

/-- The commands 45_session.md R221 calls consuming. -/
abbrev IsConsuming (i : Instr) : Prop := i = .analyze ∨ i = .encode ∨ i = .pack ∨ i = .unpack ∨ i = .decode

/-- A word that names no command: RSV is not 0, or OP is 0x9 to 0xF (30_encoding.md R93). -/
abbrev IsIllegalWord (w : Word) : Prop := w.toNat / 16 ≠ 0 ∨ 9 ≤ w.toNat % 16

/-- `s` after a command that ended in an error and consumed its operand (45_session.md R220, R221). -/
def State.failedConsuming (s : State) (code : ErrorCode) (info : Nat) : State :=
  { s with
    inBuf := [], inOvf := false, errCode := code, errInfo := BitVec.ofNat 32 info, busy := false, done := true }

/-- `s` after a successful command that changed nothing but the completion fields (60_exceptions.md R235). -/
def State.succeeded (s : State) : State := { s with errCode := .none, errInfo := 0, busy := false, done := true }

/-- `s` after a successful consuming command that appended `out` and wrote the lengths (45_session.md R220, R222;
10_state.md R56). -/
def State.produced (s : State) (out : List Byte) (len pad : Nat) : State :=
  { s with
    inBuf := [], inOvf := false, outBuf := s.outBuf ++ out, payloadBits := BitVec.ofNat 32 len,
    padding := BitVec.ofNat 32 pad, errCode := .none, errInfo := 0, busy := false, done := true }

end Sys2Proof.Machine
end

