-- ==== Sys2Proof/Certificates/Slice0/Obligations.lean ====
section
/-! DEFINITION. The statements for the provers. Each docstring names the rule of spec/ it comes from. -/

open Sys2Proof Sys2Proof.Machine

/-! Encoding and the step. -/

/-- 30_encoding.md R90 to R93: a word decodes to a command exactly when it is that command's word, and is rejected
exactly when RSV is not 0 or OP is 0x9 to 0xF. -/
def Obligations.DecodeMatchesEncode : Prop :=
  (∀ (i : Instr) (w : Word), decode w = .ok i ↔ w = encode i) ∧
  ∀ w : Word, (∃ e, decode w = .error e) ↔ IsIllegalWord w

/-- 30_encoding.md R92: the nine words of the opcode map. -/
def Obligations.OpcodeWordsDecode : Prop :=
  decode 0x00000000#32 = .ok .nop ∧ decode 0x00000001#32 = .ok .clear ∧ decode 0x00000002#32 = .ok .analyze ∧
  decode 0x00000003#32 = .ok .buildTree ∧ decode 0x00000004#32 = .ok .genTable ∧
  decode 0x00000005#32 = .ok .encode ∧ decode 0x00000006#32 = .ok .pack ∧ decode 0x00000007#32 = .ok .unpack ∧
  decode 0x00000008#32 = .ok .decode

/-- 60_exceptions.md R236, with the info of R231: a pending word that names no command completes with
ILLEGAL_COMMAND and changes nothing else. -/
def Obligations.IllegalWordCompletes : Prop :=
  ∀ (s : State) (rest : List Event), s.busy = true → IsIllegalWord s.pending →
    step { s with schedule := .core :: rest } =
      .next { s with
        schedule := rest, errCode := .illegalCommand, errInfo := s.pending, busy := false, done := true }

/-- 45_session.md R220: the core's step runs the command the pending word names (the schedule is the model's own,
log entry 4). -/
def Obligations.StepRunsPendingCommand : Prop :=
  ∀ (s : State) (i : Instr), s.busy = true → decode s.pending = .ok i →
    (∀ rest, step { s with schedule := .core :: rest } = exec i { s with schedule := rest }) ∧
    step { s with schedule := [] } = exec i { s with schedule := [] }

/-- 45_session.md R220, 60_exceptions.md R255: with BUSY = 0 the core makes no step; the state stays as it is (the
schedule is the model's own, log entries 4 and 5). -/
def Obligations.IdleCoreMakesNoStep : Prop :=
  ∀ s : State, s.busy = false →
    (∀ rest, step { s with schedule := .core :: rest } = .next { s with schedule := rest }) ∧
    step { s with schedule := [] } = .next { s with schedule := [] }

/-- 20_memory.md R65, R68: a host transaction at BASE + off reaches the window at off, and a read's value goes to the
host; an address below BASE does not reach the block (log entries 3, 4 and 6). -/
def Obligations.HostTransactionsReachWindow : Prop :=
  ∀ (s : State) (rest : List Event) (v : Word),
    (∀ off,
      step { s with schedule := .busRead (s.params.base + off) :: rest } =
        .next { (busRead off { s with schedule := rest }).2 with
          responses := s.responses ++ [(busRead off { s with schedule := rest }).1] } ∧
      step { s with schedule := .busWrite (s.params.base + off) v :: rest } =
        .next (busWrite off v { s with schedule := rest })) ∧
    ∀ addr < s.params.base,
      step { s with schedule := .busRead addr :: rest } =
        .next { s with schedule := rest, responses := s.responses ++ [0] } ∧
      step { s with schedule := .busWrite addr v :: rest } = .next { s with schedule := rest }

/-! The command frame. -/

/-- 60_exceptions.md R237, 10_state.md R50: with IN_OVF = 1 every consuming command fails with IN_OVERFLOW, before
any other check of its own. -/
def Obligations.OverflowedInputFails : Prop :=
  ∀ (i : Instr) (s : State), IsConsuming i → s.inOvf = true → exec i s = .next (s.failedConsuming .inOverflow 0)

/-- 70_reset_and_hazards.md R266: a command out of order fails with SEQUENCE, ERR_INFO the phase, and changes nothing
but the completion fields, and InBuf and IN_OVF if it is consuming. -/
def Obligations.DisallowedPhaseFails : Prop :=
  ∀ (i : Instr) (s : State), phaseAfter i s.session.phase = none →
    (IsConsuming i → s.inOvf = false → exec i s = .next (s.failedConsuming .sequence (phaseNumber s.session.phase))) ∧
    (¬ IsConsuming i → exec i s =
      .next { s with
        errCode := .sequence, errInfo := BitVec.ofNat 32 (phaseNumber s.session.phase), busy := false, done := true })

/-- 60_exceptions.md R240: a command that succeeds was allowed in the phase it found and leaves the phase of the
table; one that fails leaves the session; one that is allowed never fails with SEQUENCE. -/
def Obligations.PhasesFollowTable : Prop :=
  ∀ (i : Instr) (s t : State), exec i s = .next t →
    (t.errCode = .none → phaseAfter i s.session.phase = some t.session.phase) ∧
    (t.errCode ≠ .none → t.session = s.session) ∧
    (phaseAfter i s.session.phase ≠ none → t.errCode ≠ .sequence)

/-- 45_session.md R220, 60_exceptions.md R235: every completion clears BUSY and sets DONE, an error-free one has
ERR_INFO 0, and no command writes CTRL, INDEX, `pending` or the parameters. -/
def Obligations.CompletionFields : Prop :=
  ∀ (i : Instr) (s t : State), exec i s = .next t →
    t.busy = false ∧ t.done = true ∧ (t.errCode = .none → t.errInfo = 0) ∧ t.irqEn = s.irqEn ∧ t.idx = s.idx ∧
    t.pending = s.pending ∧ t.params = s.params ∧ t.schedule = s.schedule ∧ t.responses = s.responses ∧
    t.drawCount = s.drawCount

/-- 60_exceptions.md R235: a failed command changes ERR_CODE, ERR_INFO, BUSY and DONE, and InBuf and IN_OVF if it is
consuming, and nothing else. -/
def Obligations.FailureIsPrecise : Prop :=
  ∀ (i : Instr) (s t : State), exec i s = .next t → t.errCode ≠ .none →
    (IsConsuming i → t =
      { s with
        inBuf := [], inOvf := false, errCode := t.errCode, errInfo := t.errInfo, busy := false, done := true }) ∧
    (¬ IsConsuming i → t =
      { s with errCode := t.errCode, errInfo := t.errInfo, busy := false, done := true })

/-- 45_session.md R221: whatever its outcome a consuming command empties InBuf and clears IN_OVF; NOP, BUILD_TREE and
GEN_TABLE touch neither; CLEAR empties InBuf on success; a word that names no command leaves both. -/
def Obligations.ConsumingEmptiesInBuf : Prop :=
  (∀ (i : Instr) (s t : State), exec i s = .next t →
    (IsConsuming i → t.inBuf = [] ∧ t.inOvf = false) ∧
    (i = .nop ∨ i = .buildTree ∨ i = .genTable → t.inBuf = s.inBuf ∧ t.inOvf = s.inOvf) ∧
    (i = .clear → t.errCode = .none → t.inBuf = [] ∧ t.inOvf = false)) ∧
  ∀ s t : State, s.busy = true → IsIllegalWord s.pending → coreTurn s = .next t →
    t.inBuf = s.inBuf ∧ t.inOvf = s.inOvf

/-- 60_exceptions.md R230: an error code is only ever written by the commands its row names (OutBuf within OUT_CAP,
an invariant). -/
def Obligations.ErrorCodesByCommand : Prop :=
  ∀ (i : Instr) (s t : State), s.outBuf.length ≤ s.params.outCap → exec i s = .next t → i ∈ raisedBy t.errCode

/-- 45_session.md R222: the whole output of a successful ENCODE, PACK, UNPACK or DECODE is appended when it fits
behind what OutBuf holds; else the command fails with OUT_OVERFLOW, ERR_INFO the output's length, nothing appended.
The output is that of the same command with an empty OutBuf of capacity `K`. -/
def Obligations.OutputFitsOrOverflows : Prop :=
  ∀ (i : Instr) (s u : State) (K : Nat), i = .encode ∨ i = .pack ∨ i = .unpack ∨ i = .decode →
    exec i { s with outBuf := [], params := { s.params with outCap := K } } = .next u → u.errCode = .none →
    (s.outBuf.length + u.outBuf.length ≤ s.params.outCap →
      exec i s = .next { u with outBuf := s.outBuf ++ u.outBuf, params := s.params }) ∧
    (s.params.outCap < s.outBuf.length + u.outBuf.length →
      exec i s = .next (s.failedConsuming .outOverflow u.outBuf.length))

/-- 43_pack.md R183, R184: PACK and UNPACK depend on no part of the session and leave it. -/
def Obligations.PackUnpackIgnoreSession : Prop :=
  ∀ (i : Instr) (s : State) (S : Session), i = .pack ∨ i = .unpack →
    ∃ t, exec i s = .next t ∧ t.session = s.session ∧
      exec i { s with session := S } = .next { t with session := S }

/-! NOP and CLEAR. -/

/-- 45_session.md R223: NOP changes only the completion fields, in every phase and whatever IN_OVF is, and raises the
interrupt line when IRQ_EN is 1. -/
def Obligations.NopOnlyCompletes : Prop :=
  ∀ s : State, s.outBuf.length ≤ s.params.outCap →
    exec .nop s = .next s.succeeded ∧ (s.irqEn = true → s.succeeded.irq = true)

/-- 45_session.md R225: CLEAR resets the session, the buffers, the three flags and the two lengths; after it every
register except CTRL, INDEX and STATUS.DONE reads its reset value. -/
def Obligations.ClearEndsSession : Prop :=
  ∀ s : State, s.outBuf.length ≤ s.params.outCap → ∃ t, exec .clear s = .next t ∧
    t = { s with
      session := t.session, inBuf := [], outBuf := [], inOvf := false, hazard := false, residual := false,
      payloadBits := 0, padding := 0, errCode := .none, errInfo := 0, busy := false, done := true } ∧
    t.session.total = 0 ∧ t.session.nsym = 0 ∧ t.session.root = 0 ∧ t.session.phase = .empty ∧
    (∀ c, t.session.countOf c = 0 ∧ t.session.codeOf c = none) ∧
    (∀ k < 255, t.session.slot k = ⟨false, false, false, 0, 0, 0, 0⟩) ∧
    (∀ r, r ≠ .ctrl → r ≠ .index → r ≠ .status →
      t.registerValue r = (State.resetWith s.params).registerValue r) ∧
    t.registerValue .status = 0x2#32

/-! ANALYZE. -/

/-- 40_analyze.md R121, R125: the counts and the total of a source of symbols; no other field of the state changes
but those R120 names. -/
def Obligations.AnalyzeCountsSymbols : Prop :=
  ∀ s : State, s.inOvf = false → s.inBuf ≠ [] → (∀ b ∈ s.inBuf, b.toNat < 0x80) → s.inBuf.length < 2 ^ 32 →
    s.outBuf.length ≤ s.params.outCap → ∃ t, exec .analyze s = .next t ∧
      t = { s.succeeded with session := t.session, inBuf := [], inOvf := false } ∧
      t.session.phase = .analyzed ∧ t.session.total.toNat = s.inBuf.length ∧
      (∀ c < 128, (t.session.countOf (BitVec.ofNat 7 c)).toNat = (s.inBuf.filter fun b => b.toNat = c).length) ∧
      t.session.root = 0 ∧ ∀ c, t.session.codeOf c = none

/-- 40_analyze.md R122, R126: the leaf slots hold one record per symbol that occurs, ascending by weight with ties by
symbol, and no other slot is valid; a source of one symbol gets the synthetic record first, another source none. -/
def Obligations.AnalyzeSortsRecords : Prop :=
  ∀ s : State, s.inOvf = false → s.inBuf ≠ [] → (∀ b ∈ s.inBuf, b.toNat < 0x80) → s.inBuf.length < 2 ^ 32 →
    s.outBuf.length ≤ s.params.outCap → ∃ t, exec .analyze s = .next t ∧
      LeavesOk s.inBuf.length t.session ∧ unusedFrom t.session t.session.nsym.toNat ∧
      ((∃ a ∈ s.inBuf, ∃ b ∈ s.inBuf, a ≠ b) → ∀ i < t.session.nsym.toNat, (t.session.slot i).synth = false) ∧
      ∀ b, (∀ a ∈ s.inBuf, a = b) →
        t.session.nsym = 2 ∧
        t.session.slot 0 = ⟨true, true, true, BitVec.ofNat 7 ((b.toNat + 1) % 128), 0, 0xFF, 0xFF⟩ ∧
        t.session.slot 1 =
          ⟨true, true, false, BitVec.ofNat 7 b.toNat, BitVec.ofNat 32 s.inBuf.length, 0xFF, 0xFF⟩

/-- 40_analyze.md R123: an empty source. -/
def Obligations.AnalyzeEmptySource : Prop :=
  ∀ s : State, s.inOvf = false → s.inBuf = [] → exec .analyze s = .next (s.failedConsuming .emptySource 0)

/-- 40_analyze.md R124: the first byte of 0x80 or above. -/
def Obligations.AnalyzeSymbolRange : Prop :=
  ∀ (s : State) (xs ys : List Byte) (b : Byte), s.inOvf = false → s.inBuf = xs ++ b :: ys →
    (∀ x ∈ xs, x.toNat < 0x80) → 0x80 ≤ b.toNat →
    exec .analyze s = .next (s.failedConsuming .symbolRange xs.length)

/-- 40_analyze.md R130 (the probability of 10_state.md R61): after a successful ANALYZE the weights of the leaves
that are not synthetic sum to exactly the total, so that their probabilities sum to exactly 1, and a synthetic leaf
has probability 0. -/
def Obligations.ProbabilitiesSumToOne : Prop :=
  ∀ s : State, s.inOvf = false → s.inBuf ≠ [] → (∀ b ∈ s.inBuf, b.toNat < 0x80) → s.inBuf.length < 2 ^ 32 →
    s.outBuf.length ≤ s.params.outCap → ∃ t, exec .analyze s = .next t ∧
      (t.session.realLeaves.map fun i => (t.session.slot i).weight.toNat).sum = t.session.total.toNat ∧
      (t.session.realLeaves.map t.session.probability).sum = 1 ∧
      ∀ i < t.session.nsym.toNat, (t.session.slot i).synth = true → t.session.probability i = 0

/-! BUILD_TREE. -/

/-- 41_tree.md R140, R145, R146, R148: BUILD_TREE succeeds for every 2 to 128 leaves; it writes slots n to 2n-2, the
root 2n-2, the phase, and unassigns the table, and nothing else but the completion fields. -/
def Obligations.BuildTreeCompletes : Prop :=
  ∀ s : State, s.session.phase ≠ .empty → 2 ≤ s.session.nsym.toNat → s.session.nsym.toNat ≤ 128 →
    s.outBuf.length ≤ s.params.outCap → ∃ t, exec .buildTree s = .next t ∧
      t = { s.succeeded with
        session := { s.session with
          node := t.session.node, root := BitVec.ofNat 8 (2 * s.session.nsym.toNat - 2),
          table := Vector.replicate 128 none, phase := .built } } ∧
      (∀ i < s.session.nsym.toNat, t.session.slot i = s.session.slot i) ∧
      (∀ k < 2 * s.session.nsym.toNat - 1, s.session.nsym.toNat ≤ k →
        (t.session.slot k).valid = true ∧ (t.session.slot k).leaf = false) ∧
      unusedFrom t.session (2 * s.session.nsym.toNat - 1)

/-- 41_tree.md R150: the tree of a successful BUILD_TREE, from a state that meets the invariant. -/
def Obligations.BuildTreeShape : Prop :=
  ∀ s : State, Inv s → s.session.phase ≠ .empty → ∃ t, exec .buildTree s = .next t ∧
    LeavesOk s.params.inCap t.session ∧ TreeOk t.session ∧
    ∀ k < 2 * t.session.nsym.toNat - 1,
      ∃ c, follow t.session.node t.session.root.toNat c = some k ∧
        ∀ d, follow t.session.node t.session.root.toNat d = some k → d = c

/-- 41_tree.md R141, R142, R143, R147: the two children of an internal slot are two nodes still waiting, and each is
taken before every other waiting node: the lighter first, a leaf before an internal node of equal weight, and nodes
of one queue in the order they entered it. -/
def Obligations.MergesTakeLightest : Prop :=
  ∀ s t : State, Inv s → s.session.phase ≠ .empty → exec .buildTree s = .next t →
    ∀ k < 2 * t.session.nsym.toNat - 1, t.session.nsym.toNat ≤ k → ∀ l r : Nat,
      l = (t.session.slot k).left.toNat → r = (t.session.slot k).right.toNat →
      Waiting t.session k l ∧ Waiting t.session k r ∧ l ≠ r ∧
      ∀ j, Waiting t.session k j →
        (j ≠ l → TakenBefore t.session l j) ∧ (j ≠ l → j ≠ r → TakenBefore t.session r j)

/-- 41_tree.md R148: the tree is a function of the leaf slots alone, and a repeated BUILD_TREE writes the same tree
again. -/
def Obligations.TreeDependsOnLeavesOnly : Prop :=
  (∀ s s' t t' : State, s'.session.nsym = s.session.nsym →
    (∀ i < s.session.nsym.toNat, s'.session.slot i = s.session.slot i) →
    exec .buildTree s = .next t → t.errCode = .none → exec .buildTree s' = .next t' → t'.errCode = .none →
    t'.session.node = t.session.node ∧ t'.session.root = t.session.root) ∧
  ∀ s t : State, exec .buildTree s = .next t → t.errCode = .none → exec .buildTree t = .next t

/-! GEN_TABLE. -/

/-- 42_table.md R161, R162, R164: GEN_TABLE succeeds in phases BUILT and TABLED; the code of a symbol is the path
from the root to its leaf, and every other entry is unassigned; in phase TABLED it writes the same table again. -/
def Obligations.GenTableAssignsPaths : Prop :=
  ∀ s : State, Inv s → s.session.phase = .built ∨ s.session.phase = .tabled → ∃ t, exec .genTable s = .next t ∧
    t = { s.succeeded with session := { s.session with table := t.session.table, phase := .tabled } } ∧
    (∀ sym c, t.session.codeOf sym = some c ↔ IsPathOf s.session c sym) ∧
    (s.session.phase = .tabled → t.session = s.session)

/-- 42_table.md R163, 10_state.md R29: in phase TABLED exactly the symbols of the leaves have codes, each of 1 to 127
bits and, with n leaves, of at most n - 1. -/
def Obligations.CodeLengthsBounded : Prop :=
  ∀ s : State, Inv s → s.session.phase = .tabled →
    (∀ sym c, s.session.codeOf sym = some c →
      1 ≤ c.length ∧ c.length ≤ s.session.nsym.toNat - 1 ∧ c.length ≤ 127) ∧
    ∀ sym, (∃ c, s.session.codeOf sym = some c) ↔ ∃ i < s.session.nsym.toNat, (s.session.slot i).sym = sym

/-- 42_table.md R165: no assigned code is a prefix of another. -/
def Obligations.CodesPrefixFree : Prop :=
  ∀ s : State, Inv s → s.session.phase = .tabled → ∀ a b ca cb,
    s.session.codeOf a = some ca → s.session.codeOf b = some cb → a ≠ b → ¬ ca <+: cb

/-- 42_table.md R165: the sum of 2^-len over the assigned codes is exactly 1. -/
def Obligations.KraftEquality : Prop :=
  ∀ s : State, Inv s → s.session.phase = .tabled →
    ((List.range 128).map fun c =>
      match s.session.codeOf (BitVec.ofNat 7 c) with
      | none => (0 : ℚ)
      | some code => 1 / 2 ^ code.length).sum = 1

/-! ENCODE, PACK, UNPACK. -/

/-- 43_pack.md R177 (R175, R176, R181): ENCODE of a source whose symbols all have codes emits the packed
concatenation of the codes. -/
def Obligations.EncodeEmitsPackedCodes : Prop :=
  ∀ (s : State) (cs : List Bits), s.session.phase = .tabled → s.inOvf = false → s.inBuf ≠ [] →
    List.Forall₂ (fun b c => b.toNat < 0x80 ∧ s.session.codeOf (BitVec.ofNat 7 b.toNat) = some c) s.inBuf cs →
    s.outBuf.length + (cs.flatten.length / 8 + 1) ≤ s.params.outCap →
    exec .encode s =
      .next (s.produced (specPack cs.flatten) cs.flatten.length (8 - cs.flatten.length % 8))

/-- 43_pack.md R176, R179: the empty source, and the first byte that is no symbol or has no code. -/
def Obligations.EncodeFirstFailingByte : Prop :=
  ∀ s : State, s.session.phase = .tabled → s.inOvf = false →
    (s.inBuf = [] → exec .encode s = .next (s.failedConsuming .emptySource 0)) ∧
    ∀ (xs ys : List Byte) (b : Byte), s.inBuf = xs ++ b :: ys →
      (∀ x ∈ xs, x.toNat < 0x80 ∧ s.session.codeOf (BitVec.ofNat 7 x.toNat) ≠ none) →
      (0x80 ≤ b.toNat → exec .encode s = .next (s.failedConsuming .symbolRange xs.length)) ∧
      (b.toNat < 0x80 → s.session.codeOf (BitVec.ofNat 7 b.toNat) = none →
        exec .encode s = .next (s.failedConsuming .unassignedSymbol xs.length))

/-- 43_pack.md R181, R183: PACK of bit characters, in every phase. -/
def Obligations.PackEmitsStream : Prop :=
  ∀ (s : State) (P : Bits), s.inOvf = false → s.inBuf = bitChars P →
    s.outBuf.length + (P.length / 8 + 1) ≤ s.params.outCap →
    exec .pack s = .next (s.produced (specPack P) P.length (8 - P.length % 8))

/-- 43_pack.md R182: the first byte that is no bit character; ENCODE never raises INVALID_BIT_CHAR. -/
def Obligations.PackRejectsBadChar : Prop :=
  (∀ (s : State) (xs ys : List Byte) (b : Byte), s.inOvf = false → s.inBuf = xs ++ b :: ys →
    (∀ x ∈ xs, x = 0x30#8 ∨ x = 0x31#8) → b ≠ 0x30#8 → b ≠ 0x31#8 →
    exec .pack s = .next (s.failedConsuming .invalidBitChar xs.length)) ∧
  ∀ s t : State, exec .encode s = .next t → t.errCode ≠ .invalidBitChar

/-- 43_pack.md R184, R185: UNPACK of a byte sequence whose bits are a header of `h` bits and a payload. -/
def Obligations.UnpackEmitsPayload : Prop :=
  ∀ (s : State) (P : Bits) (h : Nat), s.inOvf = false → 1 ≤ h → h ≤ 8 →
    specUnpack s.inBuf = List.replicate (h - 1) false ++ true :: P →
    s.outBuf.length + P.length ≤ s.params.outCap →
    exec .unpack s = .next (s.produced (bitChars P) P.length h)

/-- 43_pack.md R186: an empty operand or a first byte of 0x00, for UNPACK, and for DECODE in the phases it may run
in. -/
def Obligations.HeaderNotFound : Prop :=
  ∀ s : State, s.inOvf = false → s.inBuf = [] ∨ (∃ B, s.inBuf = 0x00#8 :: B) →
    exec .unpack s = .next (s.failedConsuming .headerNotFound 0) ∧
    (s.session.phase = .built ∨ s.session.phase = .tabled →
      exec .decode s = .next (s.failedConsuming .headerNotFound 0))

/-- 43_pack.md R188: unpacking a packed sequence gives it back, with the header length; so PACK then UNPACK returns
the bit characters unchanged. -/
def Obligations.PackUnpackRoundTrip : Prop :=
  (∀ P : Bits, unpackBytes (packBytes P) = some (P, 8 - P.length % 8)) ∧
  ∀ (s t : State) (P : Bits), s.inBuf = bitChars P → exec .pack s = .next t → t.errCode = .none →
    P.length ≤ s.params.outCap →
    exec .unpack { t with inBuf := t.outBuf.drop s.outBuf.length, outBuf := [] } =
      .next { t with inBuf := [], outBuf := bitChars P }

/-- 30_encoding.md R102: a payload of L bits packs into L div 8 + 1 = (L + padding) / 8 bytes. -/
def Obligations.PackedLength : Prop :=
  ∀ P : Bits, (packBytes P).length = P.length / 8 + 1 ∧ 8 * (packBytes P).length = P.length + (8 - P.length % 8)

/-! DECODE. -/

/-- 44_decode.md R207 (R202, R204, R205): DECODE's output is the greedy parse of the payload by the paths of the
tree's leaves, the rest being a proper prefix of a path, and RESIDUAL says that the rest is not empty. It is appended
when the symbols fit, and else the command fails with OUT_OVERFLOW and their number (45_session.md R222). -/
def Obligations.DecodeIsGreedyParse : Prop :=
  ∀ (s : State) (P : Bits) (h : Nat), Inv s → s.session.phase = .built ∨ s.session.phase = .tabled →
    s.inOvf = false → 1 ≤ h → h ≤ 8 → specUnpack s.inBuf = List.replicate (h - 1) false ++ true :: P →
    ∃ (parts : List (Bits × Symbol)) (rest : Bits),
      P = (parts.map Prod.fst).flatten ++ rest ∧ (∀ p ∈ parts, IsPathOf s.session p.1 p.2) ∧
      (∃ (more : Bits) (sym : Symbol), more ≠ [] ∧ IsPathOf s.session (rest ++ more) sym) ∧
      (s.outBuf.length + parts.length ≤ s.params.outCap → exec .decode s =
        .next { s.produced (parts.map fun p => p.2.setWidth 8) P.length h with residual := decide (rest ≠ []) }) ∧
      (s.params.outCap < s.outBuf.length + parts.length →
        exec .decode s = .next (s.failedConsuming .outOverflow parts.length))

/-- 44_decode.md R208, for any session in phase TABLED that meets the invariant: DECODE of what ENCODE emitted gives
the source back, with RESIDUAL = 0. -/
def Obligations.DecodeInvertsEncode : Prop :=
  ∀ s t : State, Inv s → s.session.phase = .tabled → exec .encode s = .next t → t.errCode = .none →
    s.inBuf.length ≤ s.params.outCap →
    exec .decode { t with inBuf := t.outBuf.drop s.outBuf.length, outBuf := [] } =
      .next { t with inBuf := [], outBuf := s.inBuf, residual := false }

/-- 44_decode.md R208: for every non-empty source of symbols, ANALYZE, BUILD_TREE and GEN_TABLE succeed, ENCODE of
the source succeeds if its output fits, and DECODE of the bytes ENCODE emitted outputs exactly the source, with
RESIDUAL = 0. -/
def Obligations.SessionRoundTrip : Prop :=
  ∀ s : State, Inv s → s.inOvf = false → s.inBuf ≠ [] → (∀ b ∈ s.inBuf, b.toNat < 0x80) →
    s.inBuf.length ≤ s.params.outCap →
    ∃ s1 s2 s3 t, exec .analyze s = .next s1 ∧ exec .buildTree s1 = .next s2 ∧ exec .genTable s2 = .next s3 ∧
      s3.session.phase = .tabled ∧ exec .encode { s3 with inBuf := s.inBuf, outBuf := [] } = .next t ∧
      (t.errCode = .none ∨ t.errCode = .outOverflow) ∧
      (t.errCode = .none → ∃ u, exec .decode { t with inBuf := t.outBuf, outBuf := [] } = .next u ∧
        u.errCode = .none ∧ u.outBuf = s.inBuf ∧ u.residual = false)

/-! The register window. -/

/-- 20_memory.md R64: an offset that is misaligned or not listed reads 0 and ignores writes. -/
def Obligations.UnmappedAccess : Prop :=
  ∀ (s : State) (off : Nat) (v : Word), off % 4 ≠ 0 ∨ 0x68 ≤ off → busRead off s = (0, s) ∧ busWrite off v s = s

/-- 20_memory.md R66, R67: reads while BUSY = 1. The value of the last group is any value (log entry 7). -/
def Obligations.ReadsWhileBusy : Prop :=
  ∀ s : State, s.busy = true →
    busRead 0x00 s = (0x48554646#32, s) ∧ busRead 0x04 s = ((BitVec.ofBool s.irqEn).setWidth 32, s) ∧
    busRead 0x08 s = (s.statusWord, s) ∧ busRead 0x3C s = (s.idx.setWidth 32, s) ∧
    busRead 0x60 s = (BitVec.ofNat 32 s.params.inCap, s) ∧ busRead 0x64 s = (BitVec.ofNat 32 s.params.outCap, s) ∧
    busRead 0x0C s = (0, s) ∧ busRead 0x18 s = (0, s) ∧ busRead 0x1C s = (0, { s with hazard := true }) ∧
    ∀ off, off % 4 = 0 → off = 0x10 ∨ off = 0x14 ∨ 0x20 ≤ off ∧ off ≤ 0x38 ∨ 0x40 ≤ off ∧ off ≤ 0x5C →
      ∃ v, busRead off s = (v, { s with drawCount := s.drawCount + 1 })

/-- 20_memory.md R66: writes while BUSY = 1. -/
def Obligations.WritesWhileBusy : Prop :=
  ∀ (s : State) (v : Word), s.busy = true →
    busWrite 0x0C v s = { s with hazard := true } ∧ busWrite 0x18 v s = { s with hazard := true } ∧
    ∀ off, off ≠ 0x0C → off ≠ 0x18 → busWrite off v s = { busWrite off v { s with busy := false } with busy := true }

/-- 10_state.md R47: a CMD write. -/
def Obligations.CmdWriteAccepted : Prop :=
  ∀ (s : State) (v : Word),
    (s.busy = false → busWrite 0x0C v s = { s with pending := v, busy := true, done := false }) ∧
    (s.busy = true → busWrite 0x0C v s = { s with hazard := true }) ∧ busRead 0x0C s = (0, s)

/-- 10_state.md R52: a DATA_IN write. -/
def Obligations.DataInAppends : Prop :=
  ∀ (s : State) (v : Word),
    (s.busy = false → s.inBuf.length < s.params.inCap →
      busWrite 0x18 v s = { s with inBuf := s.inBuf ++ [BitVec.ofNat 8 (v.toNat % 256)] }) ∧
    (s.busy = false → s.params.inCap ≤ s.inBuf.length → busWrite 0x18 v s = { s with inOvf := true }) ∧
    (s.busy = true → busWrite 0x18 v s = { s with hazard := true }) ∧ busRead 0x18 s = (0, s)

/-- 10_state.md R53: a DATA_OUT read. -/
def Obligations.DataOutPops : Prop :=
  ∀ s : State,
    (∀ b rest, s.busy = false → s.outBuf = b :: rest →
      busRead 0x1C s = (BitVec.ofNat 32 (0x80000000 + b.toNat), { s with outBuf := rest })) ∧
    (s.busy = false → s.outBuf = [] → busRead 0x1C s = (0, s)) ∧
    (s.busy = true → busRead 0x1C s = (0, { s with hazard := true })) ∧ ∀ v, busWrite 0x1C v s = s

/-- 10_state.md R42, R43, R59: writes of CTRL, STATUS and INDEX, whatever BUSY is. -/
def Obligations.ControlWrites : Prop :=
  ∀ (s : State) (v : Word),
    busWrite 0x04 v s = { s with irqEn := v.toNat.testBit 0 } ∧
    busWrite 0x08 v s =
      { s with
        done := if v.toNat.testBit 1 then false else s.done,
        hazard := if v.toNat.testBit 9 then false else s.hazard } ∧
    busWrite 0x3C v s = { s with idx := BitVec.ofNat 8 (v.toNat % 256) }

/-- 10_state.md R34, R35: a write of a read-only register is ignored, with no side effect. -/
def Obligations.ReadOnlyWritesIgnored : Prop :=
  ∀ (s : State) (off : Nat) (v : Word),
    off = 0x00 ∨ off = 0x10 ∨ off = 0x14 ∨ 0x1C ≤ off ∧ off ≤ 0x38 ∨ 0x40 ≤ off → busWrite off v s = s

/-- 10_state.md R43, R46: the bits of STATUS, whatever BUSY is. -/
def Obligations.StatusWordFields : Prop :=
  ∀ s : State, (busRead 0x08 s).2 = s ∧
    (busRead 0x08 s).1.toNat =
      s.busy.toNat + 2 * s.done.toNat + 4 * (decide (s.errCode ≠ .none)).toNat + 16 * phaseNumber s.session.phase +
      256 * s.inOvf.toNat + 512 * s.hazard.toNat + 1024 * s.residual.toNat

/-- 10_state.md R60, R63: the inspection windows when BUSY = 0. -/
def Obligations.WindowReads : Prop :=
  ∀ s : State, s.busy = false →
    busRead 0x40 s = (s.session.countOf (BitVec.ofNat 7 (s.idx.toNat % 128)), s) ∧
    ((s.session.slot s.idx.toNat).valid = true →
      (busRead 0x44 s).1.toNat =
        1 + 2 * (s.session.slot s.idx.toNat).leaf.toNat + 4 * (s.session.slot s.idx.toNat).synth.toNat +
        2 ^ 8 * (s.session.slot s.idx.toNat).sym.toNat + 2 ^ 16 * (s.session.slot s.idx.toNat).left.toNat +
        2 ^ 24 * (s.session.slot s.idx.toNat).right.toNat ∧
      busRead 0x48 s = ((s.session.slot s.idx.toNat).weight, s)) ∧
    ((s.session.slot s.idx.toNat).valid = false ∨ s.idx = 0xFF#8 →
      busRead 0x44 s = (0, s) ∧ busRead 0x48 s = (0, s)) ∧
    (∀ code, s.session.codeOf (BitVec.ofNat 7 (s.idx.toNat % 128)) = some code → code.length < 128 →
      busRead 0x4C s = (BitVec.ofNat 32 (2 ^ 31 + code.length), s) ∧
      ∀ k < 128, (busRead (0x50 + 4 * (k / 32)) s).1.getLsbD (31 - k % 32) = code.getD k false) ∧
    (s.session.codeOf (BitVec.ofNat 7 (s.idx.toNat % 128)) = none →
      ∀ j < 5, busRead (0x4C + 4 * j) s = (0, s))

/-- 20_memory.md R72: the only register whose read has a side effect is DATA_OUT (`drawCount` is the model's own, log
entry 7). -/
def Obligations.OnlyDataOutReadHasSideEffect : Prop :=
  ∀ (s : State) (off : Nat), off ≠ 0x1C → { (busRead off s).2 with drawCount := s.drawCount } = s

/-- 10_state.md R41, R42, R48, R49, R54 to R57, R59: the other registers when BUSY = 0. -/
def Obligations.ResultReads : Prop :=
  ∀ s : State, s.busy = false →
    busRead 0x00 s = (0x48554646#32, s) ∧ busRead 0x04 s = (BitVec.ofNat 32 s.irqEn.toNat, s) ∧
    busRead 0x10 s = (BitVec.ofNat 32 (errorNumber s.errCode), s) ∧ busRead 0x14 s = (s.errInfo, s) ∧
    busRead 0x20 s = (BitVec.ofNat 32 s.inBuf.length, s) ∧ busRead 0x24 s = (BitVec.ofNat 32 s.outBuf.length, s) ∧
    busRead 0x28 s = (s.session.total, s) ∧ busRead 0x2C s = (BitVec.ofNat 32 s.session.nsym.toNat, s) ∧
    busRead 0x30 s = (BitVec.ofNat 32 s.session.root.toNat, s) ∧ busRead 0x34 s = (s.payloadBits, s) ∧
    busRead 0x38 s = (s.padding, s) ∧ busRead 0x3C s = (BitVec.ofNat 32 s.idx.toNat, s) ∧
    busRead 0x60 s = (BitVec.ofNat 32 s.params.inCap, s) ∧ busRead 0x64 s = (BitVec.ofNat 32 s.params.outCap, s)

/-! Reset, the interrupt line, and the whole machine. -/

/-- 70_reset_and_hazards.md R260, R261: a reset sets every state element to its reset value at once, also while
BUSY = 1, and drops the pending command (the parameters are constant; the last three fields are the model's own, log
entry 8). -/
def Obligations.ResetRestoresAll : Prop :=
  ∀ (s : State) (rest : List Event), ∃ t, step { s with schedule := .reset :: rest } = .next t ∧
    (∀ c, t.session.countOf c = 0 ∧ t.session.codeOf c = none) ∧ t.session.total = 0 ∧ t.session.nsym = 0 ∧
    t.session.root = 0 ∧ (∀ k < 255, t.session.slot k = ⟨false, false, false, 0, 0, 0, 0⟩) ∧
    t.session.phase = .empty ∧ t.inBuf = [] ∧ t.outBuf = [] ∧ t.pending = 0 ∧ t.irqEn = false ∧ t.busy = false ∧
    t.done = false ∧ t.inOvf = false ∧ t.hazard = false ∧ t.residual = false ∧ t.errCode = .none ∧ t.errInfo = 0 ∧
    t.payloadBits = 0 ∧ t.padding = 0 ∧ t.idx = 0 ∧ t.irq = false ∧ t.params = s.params ∧
    (∀ r, t.registerValue r =
      if r = .id then 0x48554646#32
      else if r = .inCap then BitVec.ofNat 32 s.params.inCap
      else if r = .outCap then BitVec.ofNat 32 s.params.outCap
      else 0) ∧
    t.schedule = rest ∧ t.responses = s.responses ∧ t.drawCount = s.drawCount

/-- 60_exceptions.md R245: the interrupt line falls only at a W1C write of DONE, an accepted CMD write, a CTRL write
of IRQ_EN = 0, or a reset; it rises only at a completion with IRQ_EN = 1, or at a CTRL write of IRQ_EN = 1 with DONE
pending. -/
def Obligations.InterruptLineChanges : Prop :=
  ∀ s t : State, step s = .next t →
    (s.irq = true → t.irq = false →
      ∃ rest, s.schedule = .reset :: rest ∨
        (∃ v, s.schedule = .busWrite (s.params.base + 0x08) v :: rest ∧ v.toNat.testBit 1 = true) ∨
        (∃ v, s.schedule = .busWrite (s.params.base + 0x0C) v :: rest ∧ s.busy = false) ∨
        ∃ v, s.schedule = .busWrite (s.params.base + 0x04) v :: rest ∧ v.toNat.testBit 0 = false) ∧
    (s.irq = false → t.irq = true →
      (s.busy = true ∧ s.irqEn = true ∧ (s.schedule = [] ∨ ∃ rest, s.schedule = .core :: rest)) ∨
      ∃ rest v, s.schedule = .busWrite (s.params.base + 0x04) v :: rest ∧ v.toNat.testBit 0 = true ∧ s.done = true)

/-- 41_tree.md R149: only ANALYZE, BUILD_TREE, CLEAR and reset write the tree. -/
def Obligations.TreeWrittenOnlyBy : Prop :=
  ∀ s t : State, step s = .next t →
    t.session.node ≠ s.session.node ∨ t.session.root ≠ s.session.root →
    (∃ rest, s.schedule = .reset :: rest) ∨
    (s.busy = true ∧ (s.schedule = [] ∨ ∃ rest, s.schedule = .core :: rest) ∧
      (decode s.pending = .ok .analyze ∨ decode s.pending = .ok .buildTree ∨ decode s.pending = .ok .clear))

/-- The invariant holds after reset, for all parameters the spec allows. -/
def Obligations.ResetStateInv : Prop :=
  Inv State.reset ∧ ∀ p : Params, p.wf = true → Inv (State.resetWith p)

/-- Every step keeps the invariant: the buffers within their capacities, the session as its phase says, the tree a
tree over the sorted leaves, the table the tree's (10_state.md R24 to R31, 41_tree.md R150). -/
def Obligations.StepKeepsInv : Prop := ∀ s t : State, Inv s → step s = .next t → Inv t

/-- 00_scope.md R14: from a state that meets the invariant no step stops. -/
def Obligations.StepsNeverStop : Prop := ∀ s : State, Inv s → ∃ t, step s = .next t

/-- 00_scope.md R14, 70_reset_and_hazards.md R275: once the scheduled events are past, one more step has the pending
command completed (the schedule is the model's own, log entry 4). -/
def Obligations.PendingCommandCompletes : Prop :=
  ∀ s : State, Inv s → ∃ t, Sys2Proof.core.run (s.schedule.length + 1) s = .next t ∧ t.busy = false ∧
    t.schedule = [] ∧ Inv t
end

