-- ==== Sys2Proof/Laws/Bits.lean ====
section
/-! SUPPORT. Lengths and small equations of the bit packer and unpacker (43_pack.md R181, R185). -/

namespace Sys2Proof.Machine

@[simp] theorem bitsOfByte_length (b : Byte) : (bitsOfByte b).length = 8 := by simp [bitsOfByte]

/-- The bits of a byte, bit 7 first (30_encoding.md R101). -/
theorem bitsOfByte_eq (b : Byte) : bitsOfByte b =
    [b.getLsbD 7, b.getLsbD 6, b.getLsbD 5, b.getLsbD 4, b.getLsbD 3, b.getLsbD 2, b.getLsbD 1, b.getLsbD 0] := rfl

/-- A byte's bits make the byte again (30_encoding.md R100, R101). -/
theorem byteOfBits_bitsOfByte : ∀ b : Byte, byteOfBits (bitsOfByte b) = b := by decide +kernel

/-- Eight bits are the bits of their byte (30_encoding.md R100, R101). -/
theorem bitsOfByte_byteOfBits (b0 b1 b2 b3 b4 b5 b6 b7 : Bool) :
    bitsOfByte (byteOfBits [b0, b1, b2, b3, b4, b5, b6, b7]) = [b0, b1, b2, b3, b4, b5, b6, b7] := by
  revert b0 b1 b2 b3 b4 b5 b6 b7; decide +kernel

/-- The padding is 1 to 8 (30_encoding.md R98). -/
theorem padOf_range (n : Nat) : 1 ≤ padOf n ∧ padOf n ≤ 8 := by unfold padOf; omega

/-- The padding completes the last group (30_encoding.md R98). -/
theorem padOf_aligned (n : Nat) : (n + padOf n) % 8 = 0 := by unfold padOf; omega

@[simp] theorem packStream_length (P : Bits) : (packStream P).length = P.length + padOf P.length := by
  have := padOf_range P.length
  simp [packStream]; omega

/-- The stream the packer cuts into bytes is the spec's (30_encoding.md R98). -/
theorem packStream_eq (P : Bits) : packStream P = specStream P := rfl

@[simp] theorem unpackStream_nil : unpackStream [] = [] := rfl

@[simp] theorem unpackStream_cons (b : Byte) (B : List Byte) :
    unpackStream (b :: B) = bitsOfByte b ++ unpackStream B := rfl

@[simp] theorem unpackStream_length (B : List Byte) : (unpackStream B).length = 8 * B.length := by
  induction B with
  | nil => rfl
  | cons b B ih => simp [ih]; omega

/-- Unpacking undoes the cut into bytes (30_encoding.md R100, R101). -/
theorem unpackStream_groupBytes (P : Bits) (h : P.length % 8 = 0) : unpackStream (groupBytes P) = P := by
  induction P using groupBytes.induct with
  | case1 b0 b1 b2 b3 b4 b5 b6 b7 rest ih =>
    simp only [List.length_cons] at h
    rw [groupBytes, unpackStream_cons, bitsOfByte_byteOfBits, ih (by omega)]
    rfl
  | case2 t ht =>
    match t, ht with
    | [], _ => rfl
    | [_], _ | [_, _], _ | [_, _, _], _ | [_, _, _, _], _ | [_, _, _, _, _], _ | [_, _, _, _, _, _], _
    | [_, _, _, _, _, _, _], _ => simp at h
    | b0 :: b1 :: b2 :: b3 :: b4 :: b5 :: b6 :: b7 :: rest, ht => exact absurd rfl (ht b0 b1 b2 b3 b4 b5 b6 b7 rest)

end Sys2Proof.Machine
end

