-- ==== Sys2Proof/Laws/State.lean ====
section
/-! SUPPORT. One lemma per field per named update of State, so that no proof unfolds a record update. -/

namespace Sys2Proof.Machine

variable (s : State)

/-! The fields after `complete`. -/

@[simp] theorem State.complete_params (code : ErrorCode) (info : Word) : (s.complete code info).params = s.params := rfl
@[simp] theorem State.complete_session (code : ErrorCode) (info : Word) : (s.complete code info).session = s.session := rfl
@[simp] theorem State.complete_inBuf (code : ErrorCode) (info : Word) : (s.complete code info).inBuf = s.inBuf := rfl
@[simp] theorem State.complete_outBuf (code : ErrorCode) (info : Word) : (s.complete code info).outBuf = s.outBuf := rfl
@[simp] theorem State.complete_pending (code : ErrorCode) (info : Word) : (s.complete code info).pending = s.pending := rfl
@[simp] theorem State.complete_irqEn (code : ErrorCode) (info : Word) : (s.complete code info).irqEn = s.irqEn := rfl
@[simp] theorem State.complete_busy (code : ErrorCode) (info : Word) : (s.complete code info).busy = false := rfl
@[simp] theorem State.complete_done (code : ErrorCode) (info : Word) : (s.complete code info).done = true := rfl
@[simp] theorem State.complete_inOvf (code : ErrorCode) (info : Word) : (s.complete code info).inOvf = s.inOvf := rfl
@[simp] theorem State.complete_hazard (code : ErrorCode) (info : Word) : (s.complete code info).hazard = s.hazard := rfl
@[simp] theorem State.complete_residual (code : ErrorCode) (info : Word) : (s.complete code info).residual = s.residual := rfl
@[simp] theorem State.complete_errCode (code : ErrorCode) (info : Word) : (s.complete code info).errCode = code := rfl
@[simp] theorem State.complete_errInfo (code : ErrorCode) (info : Word) : (s.complete code info).errInfo = info := rfl
@[simp] theorem State.complete_payloadBits (code : ErrorCode) (info : Word) : (s.complete code info).payloadBits = s.payloadBits := rfl
@[simp] theorem State.complete_padding (code : ErrorCode) (info : Word) : (s.complete code info).padding = s.padding := rfl
@[simp] theorem State.complete_idx (code : ErrorCode) (info : Word) : (s.complete code info).idx = s.idx := rfl
@[simp] theorem State.complete_drawCount (code : ErrorCode) (info : Word) : (s.complete code info).drawCount = s.drawCount := rfl
@[simp] theorem State.complete_schedule (code : ErrorCode) (info : Word) : (s.complete code info).schedule = s.schedule := rfl
@[simp] theorem State.complete_responses (code : ErrorCode) (info : Word) : (s.complete code info).responses = s.responses := rfl

/-! The fields after `consume`. -/

@[simp] theorem State.consume_params : (s.consume).params = s.params := rfl
@[simp] theorem State.consume_session : (s.consume).session = s.session := rfl
@[simp] theorem State.consume_inBuf : (s.consume).inBuf = [] := rfl
@[simp] theorem State.consume_outBuf : (s.consume).outBuf = s.outBuf := rfl
@[simp] theorem State.consume_pending : (s.consume).pending = s.pending := rfl
@[simp] theorem State.consume_irqEn : (s.consume).irqEn = s.irqEn := rfl
@[simp] theorem State.consume_busy : (s.consume).busy = s.busy := rfl
@[simp] theorem State.consume_done : (s.consume).done = s.done := rfl
@[simp] theorem State.consume_inOvf : (s.consume).inOvf = false := rfl
@[simp] theorem State.consume_hazard : (s.consume).hazard = s.hazard := rfl
@[simp] theorem State.consume_residual : (s.consume).residual = s.residual := rfl
@[simp] theorem State.consume_errCode : (s.consume).errCode = s.errCode := rfl
@[simp] theorem State.consume_errInfo : (s.consume).errInfo = s.errInfo := rfl
@[simp] theorem State.consume_payloadBits : (s.consume).payloadBits = s.payloadBits := rfl
@[simp] theorem State.consume_padding : (s.consume).padding = s.padding := rfl
@[simp] theorem State.consume_idx : (s.consume).idx = s.idx := rfl
@[simp] theorem State.consume_drawCount : (s.consume).drawCount = s.drawCount := rfl
@[simp] theorem State.consume_schedule : (s.consume).schedule = s.schedule := rfl
@[simp] theorem State.consume_responses : (s.consume).responses = s.responses := rfl

/-! The fields after `emit`. -/

@[simp] theorem State.emit_params (out : List Byte) : (s.emit out).params = s.params := rfl
@[simp] theorem State.emit_session (out : List Byte) : (s.emit out).session = s.session := rfl
@[simp] theorem State.emit_inBuf (out : List Byte) : (s.emit out).inBuf = s.inBuf := rfl
@[simp] theorem State.emit_outBuf (out : List Byte) : (s.emit out).outBuf = s.outBuf ++ out := rfl
@[simp] theorem State.emit_pending (out : List Byte) : (s.emit out).pending = s.pending := rfl
@[simp] theorem State.emit_irqEn (out : List Byte) : (s.emit out).irqEn = s.irqEn := rfl
@[simp] theorem State.emit_busy (out : List Byte) : (s.emit out).busy = s.busy := rfl
@[simp] theorem State.emit_done (out : List Byte) : (s.emit out).done = s.done := rfl
@[simp] theorem State.emit_inOvf (out : List Byte) : (s.emit out).inOvf = s.inOvf := rfl
@[simp] theorem State.emit_hazard (out : List Byte) : (s.emit out).hazard = s.hazard := rfl
@[simp] theorem State.emit_residual (out : List Byte) : (s.emit out).residual = s.residual := rfl
@[simp] theorem State.emit_errCode (out : List Byte) : (s.emit out).errCode = s.errCode := rfl
@[simp] theorem State.emit_errInfo (out : List Byte) : (s.emit out).errInfo = s.errInfo := rfl
@[simp] theorem State.emit_payloadBits (out : List Byte) : (s.emit out).payloadBits = s.payloadBits := rfl
@[simp] theorem State.emit_padding (out : List Byte) : (s.emit out).padding = s.padding := rfl
@[simp] theorem State.emit_idx (out : List Byte) : (s.emit out).idx = s.idx := rfl
@[simp] theorem State.emit_drawCount (out : List Byte) : (s.emit out).drawCount = s.drawCount := rfl
@[simp] theorem State.emit_schedule (out : List Byte) : (s.emit out).schedule = s.schedule := rfl
@[simp] theorem State.emit_responses (out : List Byte) : (s.emit out).responses = s.responses := rfl

/-! The fields after `withSession`. -/

@[simp] theorem State.withSession_params (S : Session) : (s.withSession S).params = s.params := rfl
@[simp] theorem State.withSession_session (S : Session) : (s.withSession S).session = S := rfl
@[simp] theorem State.withSession_inBuf (S : Session) : (s.withSession S).inBuf = s.inBuf := rfl
@[simp] theorem State.withSession_outBuf (S : Session) : (s.withSession S).outBuf = s.outBuf := rfl
@[simp] theorem State.withSession_pending (S : Session) : (s.withSession S).pending = s.pending := rfl
@[simp] theorem State.withSession_irqEn (S : Session) : (s.withSession S).irqEn = s.irqEn := rfl
@[simp] theorem State.withSession_busy (S : Session) : (s.withSession S).busy = s.busy := rfl
@[simp] theorem State.withSession_done (S : Session) : (s.withSession S).done = s.done := rfl
@[simp] theorem State.withSession_inOvf (S : Session) : (s.withSession S).inOvf = s.inOvf := rfl
@[simp] theorem State.withSession_hazard (S : Session) : (s.withSession S).hazard = s.hazard := rfl
@[simp] theorem State.withSession_residual (S : Session) : (s.withSession S).residual = s.residual := rfl
@[simp] theorem State.withSession_errCode (S : Session) : (s.withSession S).errCode = s.errCode := rfl
@[simp] theorem State.withSession_errInfo (S : Session) : (s.withSession S).errInfo = s.errInfo := rfl
@[simp] theorem State.withSession_payloadBits (S : Session) : (s.withSession S).payloadBits = s.payloadBits := rfl
@[simp] theorem State.withSession_padding (S : Session) : (s.withSession S).padding = s.padding := rfl
@[simp] theorem State.withSession_idx (S : Session) : (s.withSession S).idx = s.idx := rfl
@[simp] theorem State.withSession_drawCount (S : Session) : (s.withSession S).drawCount = s.drawCount := rfl
@[simp] theorem State.withSession_schedule (S : Session) : (s.withSession S).schedule = s.schedule := rfl
@[simp] theorem State.withSession_responses (S : Session) : (s.withSession S).responses = s.responses := rfl

/-! The fields after `withLengths`. -/

@[simp] theorem State.withLengths_params (len pad : Nat) : (s.withLengths len pad).params = s.params := rfl
@[simp] theorem State.withLengths_session (len pad : Nat) : (s.withLengths len pad).session = s.session := rfl
@[simp] theorem State.withLengths_inBuf (len pad : Nat) : (s.withLengths len pad).inBuf = s.inBuf := rfl
@[simp] theorem State.withLengths_outBuf (len pad : Nat) : (s.withLengths len pad).outBuf = s.outBuf := rfl
@[simp] theorem State.withLengths_pending (len pad : Nat) : (s.withLengths len pad).pending = s.pending := rfl
@[simp] theorem State.withLengths_irqEn (len pad : Nat) : (s.withLengths len pad).irqEn = s.irqEn := rfl
@[simp] theorem State.withLengths_busy (len pad : Nat) : (s.withLengths len pad).busy = s.busy := rfl
@[simp] theorem State.withLengths_done (len pad : Nat) : (s.withLengths len pad).done = s.done := rfl
@[simp] theorem State.withLengths_inOvf (len pad : Nat) : (s.withLengths len pad).inOvf = s.inOvf := rfl
@[simp] theorem State.withLengths_hazard (len pad : Nat) : (s.withLengths len pad).hazard = s.hazard := rfl
@[simp] theorem State.withLengths_residual (len pad : Nat) : (s.withLengths len pad).residual = s.residual := rfl
@[simp] theorem State.withLengths_errCode (len pad : Nat) : (s.withLengths len pad).errCode = s.errCode := rfl
@[simp] theorem State.withLengths_errInfo (len pad : Nat) : (s.withLengths len pad).errInfo = s.errInfo := rfl
@[simp] theorem State.withLengths_payloadBits (len pad : Nat) : (s.withLengths len pad).payloadBits = BitVec.ofNat 32 len := rfl
@[simp] theorem State.withLengths_padding (len pad : Nat) : (s.withLengths len pad).padding = BitVec.ofNat 32 pad := rfl
@[simp] theorem State.withLengths_idx (len pad : Nat) : (s.withLengths len pad).idx = s.idx := rfl
@[simp] theorem State.withLengths_drawCount (len pad : Nat) : (s.withLengths len pad).drawCount = s.drawCount := rfl
@[simp] theorem State.withLengths_schedule (len pad : Nat) : (s.withLengths len pad).schedule = s.schedule := rfl
@[simp] theorem State.withLengths_responses (len pad : Nat) : (s.withLengths len pad).responses = s.responses := rfl

/-! The fields after `setHazard`. -/

@[simp] theorem State.setHazard_params : (s.setHazard).params = s.params := rfl
@[simp] theorem State.setHazard_session : (s.setHazard).session = s.session := rfl
@[simp] theorem State.setHazard_inBuf : (s.setHazard).inBuf = s.inBuf := rfl
@[simp] theorem State.setHazard_outBuf : (s.setHazard).outBuf = s.outBuf := rfl
@[simp] theorem State.setHazard_pending : (s.setHazard).pending = s.pending := rfl
@[simp] theorem State.setHazard_irqEn : (s.setHazard).irqEn = s.irqEn := rfl
@[simp] theorem State.setHazard_busy : (s.setHazard).busy = s.busy := rfl
@[simp] theorem State.setHazard_done : (s.setHazard).done = s.done := rfl
@[simp] theorem State.setHazard_inOvf : (s.setHazard).inOvf = s.inOvf := rfl
@[simp] theorem State.setHazard_hazard : (s.setHazard).hazard = true := rfl
@[simp] theorem State.setHazard_residual : (s.setHazard).residual = s.residual := rfl
@[simp] theorem State.setHazard_errCode : (s.setHazard).errCode = s.errCode := rfl
@[simp] theorem State.setHazard_errInfo : (s.setHazard).errInfo = s.errInfo := rfl
@[simp] theorem State.setHazard_payloadBits : (s.setHazard).payloadBits = s.payloadBits := rfl
@[simp] theorem State.setHazard_padding : (s.setHazard).padding = s.padding := rfl
@[simp] theorem State.setHazard_idx : (s.setHazard).idx = s.idx := rfl
@[simp] theorem State.setHazard_drawCount : (s.setHazard).drawCount = s.drawCount := rfl
@[simp] theorem State.setHazard_schedule : (s.setHazard).schedule = s.schedule := rfl
@[simp] theorem State.setHazard_responses : (s.setHazard).responses = s.responses := rfl

/-! The fields after `popOut`. -/

@[simp] theorem State.popOut_params : (s.popOut).params = s.params := rfl
@[simp] theorem State.popOut_session : (s.popOut).session = s.session := rfl
@[simp] theorem State.popOut_inBuf : (s.popOut).inBuf = s.inBuf := rfl
@[simp] theorem State.popOut_outBuf : (s.popOut).outBuf = s.outBuf.tail := rfl
@[simp] theorem State.popOut_pending : (s.popOut).pending = s.pending := rfl
@[simp] theorem State.popOut_irqEn : (s.popOut).irqEn = s.irqEn := rfl
@[simp] theorem State.popOut_busy : (s.popOut).busy = s.busy := rfl
@[simp] theorem State.popOut_done : (s.popOut).done = s.done := rfl
@[simp] theorem State.popOut_inOvf : (s.popOut).inOvf = s.inOvf := rfl
@[simp] theorem State.popOut_hazard : (s.popOut).hazard = s.hazard := rfl
@[simp] theorem State.popOut_residual : (s.popOut).residual = s.residual := rfl
@[simp] theorem State.popOut_errCode : (s.popOut).errCode = s.errCode := rfl
@[simp] theorem State.popOut_errInfo : (s.popOut).errInfo = s.errInfo := rfl
@[simp] theorem State.popOut_payloadBits : (s.popOut).payloadBits = s.payloadBits := rfl
@[simp] theorem State.popOut_padding : (s.popOut).padding = s.padding := rfl
@[simp] theorem State.popOut_idx : (s.popOut).idx = s.idx := rfl
@[simp] theorem State.popOut_drawCount : (s.popOut).drawCount = s.drawCount := rfl
@[simp] theorem State.popOut_schedule : (s.popOut).schedule = s.schedule := rfl
@[simp] theorem State.popOut_responses : (s.popOut).responses = s.responses := rfl

/-! The fields after `drawn`. -/

@[simp] theorem State.drawn_params : (s.drawn).params = s.params := rfl
@[simp] theorem State.drawn_session : (s.drawn).session = s.session := rfl
@[simp] theorem State.drawn_inBuf : (s.drawn).inBuf = s.inBuf := rfl
@[simp] theorem State.drawn_outBuf : (s.drawn).outBuf = s.outBuf := rfl
@[simp] theorem State.drawn_pending : (s.drawn).pending = s.pending := rfl
@[simp] theorem State.drawn_irqEn : (s.drawn).irqEn = s.irqEn := rfl
@[simp] theorem State.drawn_busy : (s.drawn).busy = s.busy := rfl
@[simp] theorem State.drawn_done : (s.drawn).done = s.done := rfl
@[simp] theorem State.drawn_inOvf : (s.drawn).inOvf = s.inOvf := rfl
@[simp] theorem State.drawn_hazard : (s.drawn).hazard = s.hazard := rfl
@[simp] theorem State.drawn_residual : (s.drawn).residual = s.residual := rfl
@[simp] theorem State.drawn_errCode : (s.drawn).errCode = s.errCode := rfl
@[simp] theorem State.drawn_errInfo : (s.drawn).errInfo = s.errInfo := rfl
@[simp] theorem State.drawn_payloadBits : (s.drawn).payloadBits = s.payloadBits := rfl
@[simp] theorem State.drawn_padding : (s.drawn).padding = s.padding := rfl
@[simp] theorem State.drawn_idx : (s.drawn).idx = s.idx := rfl
@[simp] theorem State.drawn_drawCount : (s.drawn).drawCount = s.drawCount + 1 := rfl
@[simp] theorem State.drawn_schedule : (s.drawn).schedule = s.schedule := rfl
@[simp] theorem State.drawn_responses : (s.drawn).responses = s.responses := rfl

/-! The fields after `writeCtrl`. -/

@[simp] theorem State.writeCtrl_params (v : Word) : (s.writeCtrl v).params = s.params := rfl
@[simp] theorem State.writeCtrl_session (v : Word) : (s.writeCtrl v).session = s.session := rfl
@[simp] theorem State.writeCtrl_inBuf (v : Word) : (s.writeCtrl v).inBuf = s.inBuf := rfl
@[simp] theorem State.writeCtrl_outBuf (v : Word) : (s.writeCtrl v).outBuf = s.outBuf := rfl
@[simp] theorem State.writeCtrl_pending (v : Word) : (s.writeCtrl v).pending = s.pending := rfl
@[simp] theorem State.writeCtrl_irqEn (v : Word) : (s.writeCtrl v).irqEn = v.getLsbD 0 := rfl
@[simp] theorem State.writeCtrl_busy (v : Word) : (s.writeCtrl v).busy = s.busy := rfl
@[simp] theorem State.writeCtrl_done (v : Word) : (s.writeCtrl v).done = s.done := rfl
@[simp] theorem State.writeCtrl_inOvf (v : Word) : (s.writeCtrl v).inOvf = s.inOvf := rfl
@[simp] theorem State.writeCtrl_hazard (v : Word) : (s.writeCtrl v).hazard = s.hazard := rfl
@[simp] theorem State.writeCtrl_residual (v : Word) : (s.writeCtrl v).residual = s.residual := rfl
@[simp] theorem State.writeCtrl_errCode (v : Word) : (s.writeCtrl v).errCode = s.errCode := rfl
@[simp] theorem State.writeCtrl_errInfo (v : Word) : (s.writeCtrl v).errInfo = s.errInfo := rfl
@[simp] theorem State.writeCtrl_payloadBits (v : Word) : (s.writeCtrl v).payloadBits = s.payloadBits := rfl
@[simp] theorem State.writeCtrl_padding (v : Word) : (s.writeCtrl v).padding = s.padding := rfl
@[simp] theorem State.writeCtrl_idx (v : Word) : (s.writeCtrl v).idx = s.idx := rfl
@[simp] theorem State.writeCtrl_drawCount (v : Word) : (s.writeCtrl v).drawCount = s.drawCount := rfl
@[simp] theorem State.writeCtrl_schedule (v : Word) : (s.writeCtrl v).schedule = s.schedule := rfl
@[simp] theorem State.writeCtrl_responses (v : Word) : (s.writeCtrl v).responses = s.responses := rfl

/-! The fields after `writeIndex`. -/

@[simp] theorem State.writeIndex_params (v : Word) : (s.writeIndex v).params = s.params := rfl
@[simp] theorem State.writeIndex_session (v : Word) : (s.writeIndex v).session = s.session := rfl
@[simp] theorem State.writeIndex_inBuf (v : Word) : (s.writeIndex v).inBuf = s.inBuf := rfl
@[simp] theorem State.writeIndex_outBuf (v : Word) : (s.writeIndex v).outBuf = s.outBuf := rfl
@[simp] theorem State.writeIndex_pending (v : Word) : (s.writeIndex v).pending = s.pending := rfl
@[simp] theorem State.writeIndex_irqEn (v : Word) : (s.writeIndex v).irqEn = s.irqEn := rfl
@[simp] theorem State.writeIndex_busy (v : Word) : (s.writeIndex v).busy = s.busy := rfl
@[simp] theorem State.writeIndex_done (v : Word) : (s.writeIndex v).done = s.done := rfl
@[simp] theorem State.writeIndex_inOvf (v : Word) : (s.writeIndex v).inOvf = s.inOvf := rfl
@[simp] theorem State.writeIndex_hazard (v : Word) : (s.writeIndex v).hazard = s.hazard := rfl
@[simp] theorem State.writeIndex_residual (v : Word) : (s.writeIndex v).residual = s.residual := rfl
@[simp] theorem State.writeIndex_errCode (v : Word) : (s.writeIndex v).errCode = s.errCode := rfl
@[simp] theorem State.writeIndex_errInfo (v : Word) : (s.writeIndex v).errInfo = s.errInfo := rfl
@[simp] theorem State.writeIndex_payloadBits (v : Word) : (s.writeIndex v).payloadBits = s.payloadBits := rfl
@[simp] theorem State.writeIndex_padding (v : Word) : (s.writeIndex v).padding = s.padding := rfl
@[simp] theorem State.writeIndex_idx (v : Word) : (s.writeIndex v).idx = v.setWidth 8 := rfl
@[simp] theorem State.writeIndex_drawCount (v : Word) : (s.writeIndex v).drawCount = s.drawCount := rfl
@[simp] theorem State.writeIndex_schedule (v : Word) : (s.writeIndex v).schedule = s.schedule := rfl
@[simp] theorem State.writeIndex_responses (v : Word) : (s.writeIndex v).responses = s.responses := rfl

/-! The fields after `writeStatus`. -/

@[simp] theorem State.writeStatus_params (v : Word) : (s.writeStatus v).params = s.params := rfl
@[simp] theorem State.writeStatus_session (v : Word) : (s.writeStatus v).session = s.session := rfl
@[simp] theorem State.writeStatus_inBuf (v : Word) : (s.writeStatus v).inBuf = s.inBuf := rfl
@[simp] theorem State.writeStatus_outBuf (v : Word) : (s.writeStatus v).outBuf = s.outBuf := rfl
@[simp] theorem State.writeStatus_pending (v : Word) : (s.writeStatus v).pending = s.pending := rfl
@[simp] theorem State.writeStatus_irqEn (v : Word) : (s.writeStatus v).irqEn = s.irqEn := rfl
@[simp] theorem State.writeStatus_busy (v : Word) : (s.writeStatus v).busy = s.busy := rfl
@[simp] theorem State.writeStatus_done (v : Word) : (s.writeStatus v).done = (s.done && !v.getLsbD 1) := rfl
@[simp] theorem State.writeStatus_inOvf (v : Word) : (s.writeStatus v).inOvf = s.inOvf := rfl
@[simp] theorem State.writeStatus_hazard (v : Word) : (s.writeStatus v).hazard = (s.hazard && !v.getLsbD 9) := rfl
@[simp] theorem State.writeStatus_residual (v : Word) : (s.writeStatus v).residual = s.residual := rfl
@[simp] theorem State.writeStatus_errCode (v : Word) : (s.writeStatus v).errCode = s.errCode := rfl
@[simp] theorem State.writeStatus_errInfo (v : Word) : (s.writeStatus v).errInfo = s.errInfo := rfl
@[simp] theorem State.writeStatus_payloadBits (v : Word) : (s.writeStatus v).payloadBits = s.payloadBits := rfl
@[simp] theorem State.writeStatus_padding (v : Word) : (s.writeStatus v).padding = s.padding := rfl
@[simp] theorem State.writeStatus_idx (v : Word) : (s.writeStatus v).idx = s.idx := rfl
@[simp] theorem State.writeStatus_drawCount (v : Word) : (s.writeStatus v).drawCount = s.drawCount := rfl
@[simp] theorem State.writeStatus_schedule (v : Word) : (s.writeStatus v).schedule = s.schedule := rfl
@[simp] theorem State.writeStatus_responses (v : Word) : (s.writeStatus v).responses = s.responses := rfl

/-! The updates that depend on a test. -/

/-- A consuming command empties InBuf and clears IN_OVF (45_session.md R221). -/
theorem State.consumeFor_of_consuming {i : Instr} (h : consuming i = true) : s.consumeFor i = s.consume := if_pos h

/-- Another command leaves the state (45_session.md R221). -/
theorem State.consumeFor_of_not {i : Instr} (h : consuming i = false) : s.consumeFor i = s := by
  simp [State.consumeFor, h]

/-- What `consumeFor` does, whichever the command. -/
theorem State.consumeFor_eq (i : Instr) : s.consumeFor i =
    { s with inBuf := if consuming i then [] else s.inBuf, inOvf := if consuming i then false else s.inOvf } := by
  cases h : consuming i <;> simp [State.consumeFor, State.consume, h]

/-- What a failed command leaves (60_exceptions.md R235). -/
theorem State.fail_eq (i : Instr) (code : ErrorCode) (info : Word) : s.fail i code info =
    { s with
      inBuf := if consuming i then [] else s.inBuf, inOvf := if consuming i then false else s.inOvf,
      errCode := code, errInfo := info, busy := false, done := true } := by
  rw [State.fail, State.consumeFor_eq]; rfl

@[simp] theorem State.fail_errCode (i : Instr) (code : ErrorCode) (info : Word) :
    (s.fail i code info).errCode = code := rfl

@[simp] theorem State.fail_errInfo (i : Instr) (code : ErrorCode) (info : Word) :
    (s.fail i code info).errInfo = info := rfl

@[simp] theorem State.fail_session (i : Instr) (code : ErrorCode) (info : Word) :
    (s.fail i code info).session = s.session := by rw [State.fail_eq]

@[simp] theorem State.fail_outBuf (i : Instr) (code : ErrorCode) (info : Word) :
    (s.fail i code info).outBuf = s.outBuf := by rw [State.fail_eq]

@[simp] theorem State.fail_params (i : Instr) (code : ErrorCode) (info : Word) :
    (s.fail i code info).params = s.params := by rw [State.fail_eq]

end Sys2Proof.Machine
end

