-- ==== Sys2Proof/Laws/Bus.lean ====
section
/-! SUPPORT. The register window: offsets and registers agree, and what a transaction can change
(10_state.md R34, 20_memory.md R66, R67). -/

namespace Sys2Proof.Machine

/-- Every register stands at its offset (10_state.md R34). -/
@[simp] theorem registerAt_offset (r : Register) : registerAt (registerOffset r) = some r := by cases r <;> rfl

/-- Every offset is a multiple of 4 below 0x68 (10_state.md R34). -/
theorem registerOffset_lt (r : Register) : registerOffset r < 0x68 ∧ registerOffset r % 4 = 0 := by
  cases r <;> decide

/-- Everything a register read can do (20_memory.md R66, R67; 10_state.md R53). -/
theorem readRegister_cases (r : Register) (s : State) :
    (readRegister r s = (s.registerValue r, s) ∧ (s.busy = false ∧ r ≠ .dataOut ∨ exactWhileBusy r = true)) ∨
    (s.busy = false ∧ r = .dataOut ∧ readRegister r s = (dataOutWord s.outBuf, s.popOut)) ∨
    (s.busy = true ∧ r = .dataOut ∧ readRegister r s = (0, s.setHazard)) ∨
    (s.busy = true ∧ r ≠ .dataOut ∧ exactWhileBusy r = false ∧
      readRegister r s = (Config.unspecifiedRead s.drawCount, s.drawn)) := by
  cases hb : s.busy <;> cases he : exactWhileBusy r <;> by_cases hr : r = .dataOut <;>
    simp_all [readRegister, State.registerValue, exactWhileBusy]

/-- Everything a register write can do (20_memory.md R66). -/
theorem writeRegister_cases (r : Register) (v : Word) (s : State) :
    writeRegister r v s = s ∨ writeRegister r v s = s.writeCtrl v ∨ writeRegister r v s = s.writeStatus v ∨
    writeRegister r v s = s.writeIndex v ∨ writeRegister r v s = s.writeCmd v ∨
    writeRegister r v s = s.writeDataIn v := by
  cases r <;> simp [writeRegister]

/-- Everything a CMD write can do (10_state.md R47). -/
theorem State.writeCmd_cases (v : Word) (s : State) :
    (s.busy = true ∧ s.writeCmd v = s.setHazard) ∨
    (s.busy = false ∧ s.writeCmd v = { s with pending := v, busy := true, done := false }) := by
  cases hb : s.busy <;> simp [State.writeCmd, hb]

/-- Everything a DATA_IN write can do (10_state.md R52). -/
theorem State.writeDataIn_cases (v : Word) (s : State) :
    (s.busy = true ∧ s.writeDataIn v = s.setHazard) ∨
    (s.busy = false ∧ s.inBuf.length < s.params.inCap ∧
      s.writeDataIn v = { s with inBuf := s.inBuf ++ [v.setWidth 8] }) ∨
    (s.busy = false ∧ s.params.inCap ≤ s.inBuf.length ∧ s.writeDataIn v = { s with inOvf := true }) := by
  cases hb : s.busy <;> by_cases hl : s.inBuf.length < s.params.inCap <;> simp [State.writeDataIn, hb, hl]; omega

end Sys2Proof.Machine
end

