-- ==== Sys2Proof/Laws/Ops.lean ====
section
/-! SUPPORT. The command frame, said once: what `runCommand` can answer, and the answer on each path
(45_session.md R220). -/

namespace Sys2Proof.Machine

/-- The state a successful command commits: output appended, operand consumed, completed (45_session.md R220). -/
def State.commit (i : Instr) (out : List Byte) (s : State) : State := ((s.emit out).consumeFor i).complete .none 0

/-- The fields of a commit. -/
theorem State.commit_eq (i : Instr) (out : List Byte) (s : State) : s.commit i out =
    { s with
      outBuf := s.outBuf ++ out, inBuf := if consuming i then [] else s.inBuf,
      inOvf := if consuming i then false else s.inOvf, errCode := .none, errInfo := 0, busy := false, done := true } := by
  rw [State.commit, State.consumeFor_eq]; rfl

@[simp] theorem State.commit_session (i : Instr) (out : List Byte) (s : State) :
    (s.commit i out).session = s.session := by rw [State.commit_eq]

@[simp] theorem State.commit_errCode (i : Instr) (out : List Byte) (s : State) :
    (s.commit i out).errCode = .none := rfl

/-- Everything the frame can answer, with the condition of each case. -/
theorem runCommand_cases {i : Instr} {body : State → BodyResult} {s t : State} (h : runCommand i body s = .next t) :
    (consuming i = true ∧ s.inOvf = true ∧ t = s.fail i .inOverflow 0) ∨
    ((consuming i && s.inOvf) = false ∧
      ((allowedIn i s.session.phase = false ∧
          t = s.fail i .sequence ((phaseBits s.session.phase).setWidth 32)) ∨
        (allowedIn i s.session.phase = true ∧
          ((∃ code info, body s = .raise code info ∧ t = s.fail i code info) ∨
            ∃ s' out, body s = .done s' out ∧
              ((s.params.outCap < s.outBuf.length + out.length ∧
                  t = s.fail i .outOverflow (BitVec.ofNat 32 out.length)) ∨
                (s.outBuf.length + out.length ≤ s.params.outCap ∧ t = s'.commit i out)))))) := by
  unfold runCommand at h
  split at h
  · rename_i hc
    simp only [Bool.and_eq_true] at hc
    cases h
    exact .inl ⟨hc.1, hc.2, rfl⟩
  · rename_i hc
    refine .inr ⟨by simpa using hc, ?_⟩
    split at h
    · rename_i ha
      refine .inr ⟨ha, ?_⟩
      cases hb : body s with
      | stuck f => simp [hb, finish] at h
      | raise code info =>
        simp only [hb, finish] at h
        cases h
        exact .inl ⟨code, info, rfl, rfl⟩
      | done s' out =>
        simp only [hb, finish] at h
        refine .inr ⟨s', out, rfl, ?_⟩
        split at h
        · rename_i hl
          cases h
          exact .inl ⟨hl, rfl⟩
        · rename_i hl
          cases h
          exact .inr ⟨Nat.le_of_not_lt hl, rfl⟩
    · rename_i ha
      cases h
      exact .inl ⟨by simpa using ha, rfl⟩

/-- The frame stops only where the body does. -/
theorem runCommand_fault {i : Instr} {body : State → BodyResult} {s : State} {f : Fault}
    (h : runCommand i body s = .fault f) :
    (consuming i && s.inOvf) = false ∧ allowedIn i s.session.phase = true ∧ body s = .stuck f := by
  unfold runCommand at h
  split at h
  · cases h
  · rename_i hc
    split at h
    · rename_i ha
      refine ⟨by simpa using hc, ha, ?_⟩
      cases hb : body s with
      | stuck g => simp only [hb, finish] at h; cases h; rfl
      | raise code info => simp [hb, finish] at h
      | done s' out => simp only [hb, finish] at h; split at h <;> cases h
    · cases h

/-- The frame never refuses. -/
theorem runCommand_not_refused {i : Instr} {body : State → BodyResult} {s : State} {r : Refusal} :
    runCommand i body s ≠ .refused r := by
  unfold runCommand
  split
  · nofun
  · split
    · cases body s with
      | stuck g => nofun
      | raise code info => nofun
      | done s' out => simp only [finish]; split <;> nofun
    · nofun

/-- IN_OVERFLOW comes first (60_exceptions.md R237). -/
theorem runCommand_of_overflow {i : Instr} {body : State → BodyResult} {s : State} (hc : consuming i = true)
    (ho : s.inOvf = true) : runCommand i body s = .next (s.fail i .inOverflow 0) := by
  simp [runCommand, hc, ho]

/-- SEQUENCE comes next (60_exceptions.md R237, R240). -/
theorem runCommand_of_not_allowed {i : Instr} {body : State → BodyResult} {s : State}
    (ho : (consuming i && s.inOvf) = false) (ha : allowedIn i s.session.phase = false) :
    runCommand i body s = .next (s.fail i .sequence ((phaseBits s.session.phase).setWidth 32)) := by
  simp [runCommand, ho, ha]

/-- Where the frame's checks pass, the body decides (45_session.md R220). -/
theorem runCommand_of_allowed {i : Instr} {body : State → BodyResult} {s : State}
    (ho : (consuming i && s.inOvf) = false) (ha : allowedIn i s.session.phase = true) :
    runCommand i body s = finish i s (body s) := by
  simp [runCommand, ho, ha]

/-- A body that raises (45_session.md R220). -/
theorem finish_raise (i : Instr) (s : State) (code : ErrorCode) (info : Word) :
    finish i s (.raise code info) = .next (s.fail i code info) := rfl

/-- A body whose output fits (45_session.md R222). -/
theorem finish_done {i : Instr} {s s' : State} {out : List Byte}
    (h : s.outBuf.length + out.length ≤ s.params.outCap) : finish i s (.done s' out) = .next (s'.commit i out) := by
  simp only [finish, if_neg (Nat.not_lt.mpr h)]; rfl

/-- A body whose output does not fit (45_session.md R222). -/
theorem finish_overflow {i : Instr} {s s' : State} {out : List Byte}
    (h : s.params.outCap < s.outBuf.length + out.length) :
    finish i s (.done s' out) = .next (s.fail i .outOverflow (BitVec.ofNat 32 out.length)) := by
  simp [finish, h]

/-- The body of each command; `exec` is the frame around it. -/
def bodyOf : Instr → State → BodyResult
  | .nop => nopBody
  | .clear => clearBody
  | .analyze => analyzeBody
  | .buildTree => buildTreeBody
  | .genTable => genTableBody
  | .encode => encodeBody
  | .pack => packBody
  | .unpack => unpackBody
  | .decode => decodeBody

/-- Every command runs in the common frame (45_session.md R220). -/
theorem exec_eq (i : Instr) (s : State) : exec i s = runCommand i (bodyOf i) s := by cases i <;> rfl

/-- What a body that succeeds leaves unchanged: it writes only the session, the result registers and, for CLEAR, the
buffers and flags of 45_session.md R225. -/
theorem bodyOf_done_host {i : Instr} {s s' : State} {out : List Byte} (h : bodyOf i s = .done s' out) :
    s'.params = s.params ∧ s'.pending = s.pending ∧ s'.irqEn = s.irqEn ∧ s'.busy = s.busy ∧ s'.done = s.done ∧
    s'.idx = s.idx ∧ s'.drawCount = s.drawCount ∧ s'.schedule = s.schedule ∧ s'.responses = s.responses := by
  cases i <;> simp only [bodyOf] at h
  case nop => cases h; simp
  case clear => cases h; simp [State.cleared]
  case analyze =>
    unfold analyzeBody at h
    split at h
    · cases h
    · split at h <;> cases h; simp
  case buildTree => unfold buildTreeBody at h; split at h <;> cases h; simp
  case genTable => unfold genTableBody at h; split at h <;> cases h; simp
  case encode =>
    unfold encodeBody packResult at h
    split at h
    · cases h
    · split at h <;> cases h; simp
  case pack => unfold packBody packResult at h; split at h <;> cases h; simp
  case unpack => unfold unpackBody at h; split at h <;> cases h; simp
  case decode =>
    unfold decodeBody at h
    split at h
    · cases h
    · split at h <;> cases h; simp

/-- Every command but CLEAR leaves both buffers and IN_OVF and HAZARD to the frame. -/
theorem bodyOf_done_buffers {i : Instr} {s s' : State} {out : List Byte} (hi : i ≠ .clear)
    (h : bodyOf i s = .done s' out) :
    s'.inBuf = s.inBuf ∧ s'.outBuf = s.outBuf ∧ s'.inOvf = s.inOvf ∧ s'.hazard = s.hazard := by
  cases i <;> simp only [bodyOf] at h
  case nop => cases h; simp
  case clear => exact absurd rfl hi
  case analyze =>
    unfold analyzeBody at h
    split at h
    · cases h
    · split at h <;> cases h; simp
  case buildTree => unfold buildTreeBody at h; split at h <;> cases h; simp
  case genTable => unfold genTableBody at h; split at h <;> cases h; simp
  case encode =>
    unfold encodeBody packResult at h
    split at h
    · cases h
    · split at h <;> cases h; simp
  case pack => unfold packBody packResult at h; split at h <;> cases h; simp
  case unpack => unfold unpackBody at h; split at h <;> cases h; simp
  case decode =>
    unfold decodeBody at h
    split at h
    · cases h
    · split at h <;> cases h; simp

end Sys2Proof.Machine
end

