-- ==== Sys2Proof/Laws/PerInstr.lean ====
section
/-! SUPPORT. Facts said of each constructor: the command word of each command is legal, and its reserved bits are 0
(30_encoding.md R91, R93). -/

namespace Sys2Proof.Laws.EncodedWordLegal

/-- The word of a command is a legal one with RSV = 0 and the command's own opcode. -/
def Statement (i : Instr) : Prop :=
  i.wf = true ∧ CommandWord.wf (encode i) = true ∧ rsvField (encode i) = 0 ∧ opField (encode i) = opcode i

theorem nop : Statement .nop := by unfold Statement; decide
theorem clear : Statement .clear := by unfold Statement; decide
theorem analyze : Statement .analyze := by unfold Statement; decide
theorem buildTree : Statement .buildTree := by unfold Statement; decide
theorem genTable : Statement .genTable := by unfold Statement; decide
theorem encode : Statement .encode := by unfold Statement; decide
theorem pack : Statement .pack := by unfold Statement; decide
theorem unpack : Statement .unpack := by unfold Statement; decide
theorem decode : Statement .decode := by unfold Statement; decide

end Sys2Proof.Laws.EncodedWordLegal
end

