-- ==== Sys2Proof/Laws/Step.lean ====
section
/-! SUPPORT. The step, said once: what each event does (00_scope.md R13, 45_session.md R220). -/

namespace Sys2Proof.Machine

/-- The core's turn on a state whose pending word names a command. -/
theorem coreTurn_of_decode {s : State} {i : Instr} (hb : s.busy = true) (hd : decode s.pending = .ok i) :
    coreTurn s = exec i s := by
  simp [coreTurn, coreStep, hb, hd]

/-- The core's turn on a word that names no command (30_encoding.md R90). -/
theorem coreTurn_of_illegal {s : State} {e : DecodeError} (hb : s.busy = true) (hd : decode s.pending = .error e) :
    coreTurn s = .next s.illegal := by
  simp [coreTurn, coreStep, hb, hd]

/-- The core makes no step while BUSY = 0 (45_session.md R220). -/
theorem coreTurn_idle {s : State} (hb : s.busy = false) : coreTurn s = .next s := by simp [coreTurn, hb]

/-- Everything the core's turn can answer. -/
theorem coreTurn_cases {s t : State} (h : coreTurn s = .next t) :
    (s.busy = false ∧ t = s) ∨
    (s.busy = true ∧ ∃ i, decode s.pending = .ok i ∧ exec i s = .next t) ∨
    (s.busy = true ∧ (∃ e, decode s.pending = .error e) ∧ t = s.illegal) := by
  cases hb : s.busy with
  | false =>
    rw [coreTurn_idle hb] at h
    cases h
    exact .inl ⟨rfl, rfl⟩
  | true =>
    cases hd : decode s.pending with
    | ok i => exact .inr (.inl ⟨rfl, i, rfl, by rwa [coreTurn_of_decode hb hd] at h⟩)
    | error e =>
      rw [coreTurn_of_illegal hb hd] at h
      cases h
      exact .inr (.inr ⟨rfl, ⟨e, rfl⟩, rfl⟩)

/-- A step with nothing scheduled is the core's turn. -/
theorem step_nil {s : State} (h : s.schedule = []) : step s = coreTurn s := by simp [step, h]

/-- A step performs the oldest event. -/
theorem step_cons {s : State} {e : Event} {rest : List Event} (h : s.schedule = e :: rest) :
    step s = perform e { s with schedule := rest } := by simp [step, h]

/-- Everything a step can answer. -/
theorem step_cases {s t : State} (h : step s = .next t) :
    (s.schedule = [] ∧ coreTurn s = .next t) ∨
    ∃ rest, (s.schedule = .core :: rest ∧ coreTurn { s with schedule := rest } = .next t) ∨
      (s.schedule = .reset :: rest ∧ t = resetEvent { s with schedule := rest }) ∨
      (∃ addr, s.schedule = .busRead addr :: rest ∧ t = hostRead addr { s with schedule := rest }) ∨
      ∃ addr v, s.schedule = .busWrite addr v :: rest ∧ t = hostWrite addr v { s with schedule := rest } := by
  cases hs : s.schedule with
  | nil => exact .inl ⟨rfl, by rwa [step_nil hs] at h⟩
  | cons e rest =>
    rw [step_cons hs] at h
    refine .inr ⟨rest, ?_⟩
    cases e with
    | core => exact .inl ⟨rfl, h⟩
    | reset => cases h; exact .inr (.inl ⟨rfl, rfl⟩)
    | busRead addr => cases h; exact .inr (.inr (.inl ⟨addr, rfl, rfl⟩))
    | busWrite addr v => cases h; exact .inr (.inr (.inr ⟨addr, v, rfl, rfl⟩))

/-- Only the core's turn can stop. -/
theorem step_fault {s : State} {f : Fault} (h : step s = .fault f) :
    (s.schedule = [] ∧ coreTurn s = .fault f) ∨
    ∃ rest, s.schedule = .core :: rest ∧ coreTurn { s with schedule := rest } = .fault f := by
  cases hs : s.schedule with
  | nil => exact .inl ⟨rfl, by rwa [step_nil hs] at h⟩
  | cons e rest =>
    rw [step_cons hs] at h
    cases e with
    | core => exact .inr ⟨rest, rfl, h⟩
    | reset => cases h
    | busRead addr => cases h
    | busWrite addr v => cases h

end Sys2Proof.Machine
end

