-- ==== Sys2Proof/Laws/Tree.lean ====
section
/-! SUPPORT. The slots and queues of BUILD_TREE (41_tree.md R140 to R145), said once. -/

namespace Sys2Proof.Machine

/-- A slot after one slot was written. -/
theorem slotAt_set (N : Vector NodeSlot 255) (k i : Nat) (nd : NodeSlot) :
    slotAt (N.setIfInBounds k nd) i = if i = k ∧ k < 255 then nd else slotAt N i := by
  unfold slotAt
  by_cases hk : k < 255
  · by_cases hi : k = i
    · subst hi; simp [hk]
    · have : i ≠ k := fun h => hi h.symm
      simp [hi, this]
  · by_cases hi : i = k
    · subst hi; simp [hk]
    · have : k ≠ i := fun h => hi h.symm
      simp [this, hi]

/-- A slot after the slots from `n` on were made invalid (41_tree.md R140, commit). -/
theorem slotAt_clearFrom (N : Vector NodeSlot 255) (n i : Nat) :
    slotAt (clearFrom n N) i = if i < n then slotAt N i else NodeSlot.empty := by
  unfold slotAt clearFrom
  by_cases hi : i < 255
  · by_cases hn : i < n <;> simp [hi, hn]
  · simp [hi]

@[simp] theorem MergeState.merge_next (q : MergeState) (l r : Nat) : (q.merge l r).next = q.next + 1 := rfl

@[simp] theorem MergeState.merge_source (q : MergeState) (l r : Nat) : (q.merge l r).source = q.source := rfl

@[simp] theorem MergeState.merge_target (q : MergeState) (l r : Nat) :
    (q.merge l r).target = q.target ++ [q.next] := rfl

@[simp] theorem MergeState.merge_root (q : MergeState) (l r : Nat) : (q.merge l r).root = q.next := rfl

@[simp] theorem MergeState.merge_node (q : MergeState) (l r : Nat) : (q.merge l r).node =
    q.node.setIfInBounds q.next (internalSlot (q.weight l + q.weight r) l r) := rfl

/-- Everything `take()` can answer (41_tree.md R143). -/
theorem MergeState.take_cases {q q' : MergeState} {x : Nat} (h : q.take = some (x, q')) :
    (q.source = x :: q'.source ∧ q' = { q with source := q'.source } ∧
      ∀ y ∈ q.target.head?, (q.weight x).toNat ≤ (q.weight y).toNat) ∨
    (q.target = x :: q'.target ∧ q' = { q with target := q'.target } ∧
      ∀ y ∈ q.source.head?, (q.weight x).toNat < (q.weight y).toNat) := by
  unfold MergeState.take at h
  split at h
  · cases h
  · rename_i ht hs
    cases h
    exact .inl ⟨hs, rfl, by simp [ht]⟩
  · rename_i ht hs
    cases h
    exact .inr ⟨ht, rfl, by simp [hs]⟩
  · rename_i ht hs
    split at h
    · rename_i hw
      cases h
      exact .inl ⟨hs, rfl, by simpa [ht] using hw⟩
    · rename_i hw
      cases h
      exact .inr ⟨ht, rfl, by simpa [hs] using hw⟩

/-- `take()` answers whenever a queue holds a node (41_tree.md R146). -/
theorem MergeState.take_some {q : MergeState} (h : q.source ≠ [] ∨ q.target ≠ []) : ∃ p, q.take = some p := by
  unfold MergeState.take
  split
  · rename_i ht hs; simp [ht, hs] at h
  · exact ⟨_, rfl⟩
  · exact ⟨_, rfl⟩
  · split <;> exact ⟨_, rfl⟩

/-- The leaves are a matter of the counts and slots alone, not of table and phase. -/
theorem LeavesOk.retabled {cap : Nat} {S : Session} (h : LeavesOk cap S) (T : Vector (Option Bits) 128) (p : Phase) :
    LeavesOk cap { S with table := T, phase := p } :=
  ⟨h.nsym_ge, h.nsym_le, h.total_pos, h.total_le, h.leaf, h.ordered, h.weight_count, h.synth_iff, h.synth_first,
    h.covered, h.leaf_sum⟩

/-- The tree is a matter of the slots and the root alone, not of table and phase. -/
theorem TreeOk.retabled {S : Session} (h : TreeOk S) (T : Vector (Option Bits) 128) (p : Phase) :
    TreeOk { S with table := T, phase := p } :=
  ⟨h.root_slot, h.inner, h.parents, h.root_weight, h.unused⟩

end Sys2Proof.Machine
end

