-- ==== Sys2Proof/Laws/Walker.lean ====
section
/-! SUPPORT. Equations of the tree walker and of paths in the tree (44_decode.md R202, 42_table.md R161). -/

namespace Sys2Proof.Machine

@[simp] theorem follow_nil (N : Vector NodeSlot 255) (i : Nat) : follow N i [] = some i := by
  cases h : follow N i [] <;> simp_all [follow]

/-- A path goes on from an internal slot (42_table.md R161). -/
theorem follow_cons {N : Vector NodeSlot 255} {i : Nat} {nd : NodeSlot} (hn : N[i]? = some nd)
    (hl : nd.leaf = false) (b : Bool) (c : Bits) :
    follow N i (b :: c) = follow N (if b then nd.right else nd.left).toNat c := by
  simp [follow, hn, hl]

/-- No path goes on from a leaf (42_table.md R161). -/
theorem follow_leaf {N : Vector NodeSlot 255} {i : Nat} {nd : NodeSlot} (hn : N[i]? = some nd)
    (hl : nd.leaf = true) (b : Bool) (c : Bits) : follow N i (b :: c) = none := by
  simp [follow, hn, hl]

/-- A path of two parts (42_table.md R161). -/
theorem follow_append (N : Vector NodeSlot 255) (i : Nat) (c d : Bits) :
    follow N i (c ++ d) = (follow N i c).bind fun j => follow N j d := by
  induction c generalizing i with
  | nil => simp
  | cons b c ih =>
    rw [List.cons_append, follow, follow]
    cases N[i]? with
    | none => rfl
    | some nd => by_cases hl : nd.leaf <;> simp [hl, ih]

/-- The walk ends when no bit is left (44_decode.md R200). -/
theorem walk_nil (N : Vector NodeSlot 255) (root fuel : Nat) (c : Cursor) (h : c.rest = []) :
    walk N root fuel c = .ok c := by
  cases fuel <;> simp [walk, h]

/-- A step from an internal slot consumes the bit (44_decode.md R202). -/
theorem walk_inner {N : Vector NodeSlot 255} {root fuel : Nat} {c : Cursor} {b : Bool} {rest : Bits} {nd : NodeSlot}
    (hr : c.rest = b :: rest) (hn : N[c.ptr]? = some nd) (hl : nd.leaf = false) :
    walk N root (fuel + 1) c =
      walk N root fuel { c with ptr := (if b then nd.right else nd.left).toNat, rest := rest } := by
  simp [walk, hr, hn, walkStep, hl]

/-- A step from a leaf emits and resets to the root, consuming nothing (44_decode.md R202). -/
theorem walk_leaf {N : Vector NodeSlot 255} {root fuel : Nat} {c : Cursor} {b : Bool} {rest : Bits} {nd : NodeSlot}
    (hr : c.rest = b :: rest) (hn : N[c.ptr]? = some nd) (hl : nd.leaf = true) :
    walk N root (fuel + 1) c = walk N root fuel { c with ptr := root, out := c.out ++ [nd.sym] } := by
  simp [walk, hr, hn, walkStep, hl]

end Sys2Proof.Machine
end

