-- ==== Sys2Proof/Machine/Script.lean ====
section
/-! DEFINITION. The host script notation (30_encoding.md R110, R111): statements and their expansion into events. -/

namespace Sys2Proof.Machine

/-- A statement of the host script. `wait polls` is the loop of R111 with the core's step after `polls` reads that
found BUSY = 1; the last read finds BUSY = 0 (log entry 20). `push` takes the bytes. -/
inductive Stmt where
  | write (r : Register) (v : Word)
  | read (r : Register)
  | cmd (i : Instr)
  | wait (polls : Nat)
  | push (bytes : List Byte)
  | pushbits (bits : Bits)
  | pull (n : Nat)
  | run (i : Instr) (polls : Nat)
  | prepare (text : List Byte) (polls : Nat)
  | compress (text : List Byte) (polls : Nat)
  deriving DecidableEq, Repr

/-- `write REG, v` (30_encoding.md R110): BusWrite at the platform address of the register. -/
def writeEvent (p : Params) (r : Register) (v : Word) : Event := .busWrite (p.base + registerOffset r) v

/-- `read REG` (30_encoding.md R110). -/
def readEvent (p : Params) (r : Register) : Event := .busRead (p.base + registerOffset r)

/-- `push b0, b1, ...` (30_encoding.md R111). -/
def pushEvents (p : Params) (bytes : List Byte) : List Event :=
  bytes.map fun b => writeEvent p .dataIn (b.setWidth 32)

/-- `wait` (30_encoding.md R111). -/
def waitEvents (p : Params) (polls : Nat) : List Event :=
  List.replicate polls (readEvent p .status) ++ [.core, readEvent p .status]

/-- `run MNEMONIC` (30_encoding.md R111). -/
def runEvents (p : Params) (i : Instr) (polls : Nat) : List Event :=
  writeEvent p .cmd (encode i) :: waitEvents p polls

/-- `prepare "text"` (30_encoding.md R111). -/
def prepareEvents (p : Params) (text : List Byte) (polls : Nat) : List Event :=
  pushEvents p text ++ runEvents p .analyze polls ++ runEvents p .buildTree polls ++ runEvents p .genTable polls

/-- The events of one statement (30_encoding.md R110, R111). -/
def Stmt.events (p : Params) : Stmt → List Event
  | .write r v => [writeEvent p r v]
  | .read r => [readEvent p r]
  | .cmd i => [writeEvent p .cmd (encode i)]
  | .wait polls => waitEvents p polls
  | .push bytes => pushEvents p bytes
  | .pushbits bits => pushEvents p (bits.map charOfBit)
  | .pull n => List.replicate n (readEvent p .dataOut)
  | .run i polls => runEvents p i polls
  | .prepare text polls => prepareEvents p text polls
  | .compress text polls => prepareEvents p text polls ++ pushEvents p text ++ runEvents p .encode polls

/-- The events of a script, in order (30_encoding.md R110). -/
def scriptEvents (p : Params) (stmts : List Stmt) : List Event := stmts.flatMap (Stmt.events p)

/-- `s` with the script's events still to come. -/
def State.withScript (stmts : List Stmt) (s : State) : State :=
  { s with schedule := s.schedule ++ scriptEvents s.params stmts }

end Sys2Proof.Machine
end

