-- ==== Sys2Proof/Tests/Slice0.lean ====
section
/-! SUPPORT. Tests on the vectors of 95_test_vectors.md (the number V<n> stands at each), the smoke tests of
WellFormed.lean and Decode.lean, and one witness for the hypotheses of every statement. -/

namespace Sys2Proof.Tests

open Sys2Proof Sys2Proof.Machine

set_option Elab.async false

/-! Helpers. -/

/-- The next state of an outcome. -/
def after : Host.Outcome State Fault Refusal → Option State
  | .next t => some t
  | _ => none

/-- An outcome checked by evaluation. -/
theorem exists_next {o : Host.Outcome State Fault Refusal} {p : State → Prop} [DecidablePred p]
    (h : (match after o with | some t => decide (p t) | none => false) = true) : ∃ t, o = .next t ∧ p t := by
  cases o with
  | next t => exact ⟨t, rfl, by simpa [after] using h⟩
  | fault f => simp [after] at h
  | refused r => simp [after] at h

/-- A small instance: IN_CAP = 16, OUT_CAP = 16, BASE = 0x100. -/
def small : State := State.resetWith { inCap := 16, outCap := 16, base := 0x100 }

/-- `small` with this operand. -/
def withIn (b : List Byte) : State := { small with inBuf := b }

/-- The bytes of "abracadabra", "aabbbcccc", "aaab", "ab". -/
def abracadabra : List Byte := [0x61, 0x62, 0x72, 0x61, 0x63, 0x61, 0x64, 0x61, 0x62, 0x72, 0x61]
def aabbbcccc : List Byte := [0x61, 0x61, 0x62, 0x62, 0x62, 0x63, 0x63, 0x63, 0x63]
def aaab : List Byte := [0x61, 0x61, 0x61, 0x62]
def ab : List Byte := [0x61, 0x62]

/-- A leaf slot and an internal slot, written from 10_state.md R26. -/
def leafOf (sym : Symbol) (w : Word) : NodeSlot := ⟨true, true, false, sym, w, 0xFF, 0xFF⟩
def innerOf (w : Word) (l r : BitVec 8) : NodeSlot := ⟨true, false, false, 0, w, l, r⟩

/-- The session of "aaab" in phase TABLED, as the end state of Program 1 lists it. -/
def aaabTabled : Session where
  count := ((Vector.replicate 128 0).setIfInBounds 0x61 3).setIfInBounds 0x62 1
  total := 4
  nsym  := 2
  node  := (((Vector.replicate 255 NodeSlot.empty).setIfInBounds 0 (leafOf 0x62 1)).setIfInBounds 1
    (leafOf 0x61 3)).setIfInBounds 2 (innerOf 4 0 1)
  root  := 2
  table := ((Vector.replicate 128 none).setIfInBounds 0x61 (some [true])).setIfInBounds 0x62 (some [false])
  phase := .tabled

/-- The same in phase BUILT. -/
def aaabBuilt : Session := { aaabTabled with table := noCodes, phase := .built }

/-- `small` holding these sessions. -/
def tabled : State := { small with session := aaabTabled }
def built : State := { small with session := aaabBuilt }

/-- `small` after ANALYZE of a source. -/
def analyzed (src : List Byte) : State := { small with session := analyzedSession src }

/-- `small` after ANALYZE and BUILD_TREE of a source. -/
def treeOf (src : List Byte) : State :=
  match after (exec .buildTree (analyzed src)) with
  | some t => t
  | none => small

/-- The leaves of "aaab", by evaluation. -/
theorem leavesOk_aaab : LeavesOk 16 aaabTabled where
  nsym_ge := by decide
  nsym_le := by decide
  total_pos := by decide
  total_le := by decide
  leaf := by decide +kernel
  ordered := by decide +kernel
  weight_count := by decide +kernel
  synth_iff := by decide +kernel
  synth_first := by decide +kernel
  covered := by decide +kernel
  leaf_sum := by decide +kernel

/-- The tree of "aaab", by evaluation. -/
theorem treeOk_aaab : TreeOk aaabTabled where
  root_slot := by decide
  inner := by decide +kernel
  parents := by decide +kernel
  root_weight := by decide +kernel
  unused := by decide +kernel

/-- Of `small` only the session matters to the invariant. -/
theorem inv_small {S : Session} (h : SessionOk 16 S) : Inv { small with session := S } where
  params := (by decide : small.params.wf = true)
  inBuf_le := Nat.zero_le _
  outBuf_le := Nat.zero_le _
  session := h
  busy_done := nofun
  overflow := nofun
  no_info := fun _ => rfl
  payload_lt := (by decide : small.payloadBits.toNat < 2 ^ 31)
  padding_le := Nat.zero_le _
  aligned := rfl

theorem inv_tabled : Inv tabled := inv_small ⟨leavesOk_aaab, treeOk_aaab, by decide +kernel⟩

theorem inv_built : Inv built := inv_small ⟨leavesOk_aaab.retabled _ _, treeOk_aaab.retabled _ _, rfl⟩

theorem leavesOk_aabbbcccc : LeavesOk 16 (analyzedSession aabbbcccc) where
  nsym_ge := by decide +kernel
  nsym_le := by decide +kernel
  total_pos := by decide
  total_le := by decide
  leaf := by decide +kernel
  ordered := by decide +kernel
  weight_count := by decide +kernel
  synth_iff := by decide +kernel
  synth_first := by decide +kernel
  covered := by decide +kernel
  leaf_sum := by decide +kernel

theorem inv_analyzed_aabbbcccc : Inv (analyzed aabbbcccc) :=
  inv_small ⟨leavesOk_aabbbcccc, rfl, by decide +kernel, rfl⟩

/-! WellFormed: each check refuses an ill-formed term. -/

theorem test_wf_reserved_bits : CommandWord.reservedZero 0x00000010#32 = false := by decide
theorem test_wf_opcode : CommandWord.opcodeAssigned 0x00000009#32 = false := by decide
theorem test_wf_word : CommandWord.wf 0x80000002#32 = false ∧ CommandWord.wf 0x00000008#32 = true := by decide
theorem test_wf_inCap_zero : Params.inCapOk { inCap := 0, outCap := 1, base := 0 } = false := by decide
theorem test_wf_inCap_large : Params.inCapOk { inCap := 2 ^ 28 + 1, outCap := 1, base := 0 } = false := by decide
theorem test_wf_outCap_zero : Params.outCapOk { inCap := 1, outCap := 0, base := 0 } = false := by decide
theorem test_wf_outCap_large : Params.outCapOk { inCap := 1, outCap := 2 ^ 28 + 1, base := 0 } = false := by decide
theorem test_wf_base : Params.baseOk { inCap := 1, outCap := 1, base := 0x80 } = false := by decide
theorem test_wf_params : Params.wf { inCap := 1, outCap := 2 ^ 28, base := 0x300 } = true := by decide
theorem test_wf_instr : Instr.wf .decode = true := by decide

/-! Decode: every row's word, RSV (28 bits of 0) and OP written out from 30_encoding.md R91 and R92. -/

theorem test_decode_nop : decode 0b00000000000000000000000000000000#32 = .ok .nop := by decide
theorem test_decode_clear : decode 0b00000000000000000000000000000001#32 = .ok .clear := by decide
theorem test_decode_analyze : decode 0b00000000000000000000000000000010#32 = .ok .analyze := by decide
theorem test_decode_buildTree : decode 0b00000000000000000000000000000011#32 = .ok .buildTree := by decide
theorem test_decode_genTable : decode 0b00000000000000000000000000000100#32 = .ok .genTable := by decide
theorem test_decode_encode : decode 0b00000000000000000000000000000101#32 = .ok .encode := by decide
theorem test_decode_pack : decode 0b00000000000000000000000000000110#32 = .ok .pack := by decide
theorem test_decode_unpack : decode 0b00000000000000000000000000000111#32 = .ok .unpack := by decide
theorem test_decode_decode : decode 0b00000000000000000000000000001000#32 = .ok .decode := by decide
/-- V86. -/
theorem test_decode_illegal : decode 0x00000009#32 = .error .reservedOpcode ∧
    decode 0x0000000F#32 = .error .reservedOpcode ∧ decode 0x00000010#32 = .error .reservedBits ∧
    decode 0x80000002#32 = .error .reservedBits ∧ decode 0xFFFFFFFF#32 = .error .reservedBits := by decide
theorem test_decodeTableWord : decodeTableWord 32 0x3 = some .buildTree ∧ decodeTableWord 32 0x9 = none := by decide

/-! Instructions, one step each. -/

/-- V88, and V87 for IN_OVF. -/
theorem test_nop : ∃ t, exec .nop { small with inOvf := true } = .next t ∧
    t.errCode = .none ∧ t.done = true ∧ t.inOvf = true := exists_next (by decide +kernel)

/-- V89. -/
theorem test_clear : ∃ t, exec .clear { tabled with outBuf := [0x1E], idx := 7, irqEn := true } = .next t ∧
    t.statusWord = 0x02 ∧ t.outBuf = [] ∧ t.session.nsym = 0 ∧ t.idx = 7 ∧ t.irqEn = true :=
  exists_next (by decide +kernel)

/-- V5. -/
theorem test_analyze_sorts : ∃ t, exec .analyze (withIn abracadabra) = .next t ∧
    t.session.nsym = 5 ∧ t.session.total = 11 ∧
    (List.range 6).map t.session.slot =
      [leafOf 0x63 1, leafOf 0x64 1, leafOf 0x62 2, leafOf 0x72 2, leafOf 0x61 5, NodeSlot.empty] :=
  exists_next (by decide +kernel)

/-- V3. -/
theorem test_analyze_synthetic : ∃ t, exec .analyze (withIn [0x7F]) = .next t ∧
    t.session.slot 0 = ⟨true, true, true, 0x00, 0, 0xFF, 0xFF⟩ ∧ t.session.slot 1 = leafOf 0x7F 1 :=
  exists_next (by decide +kernel)

/-- V16. -/
theorem test_buildTree : ∃ t, exec .buildTree (analyzed abracadabra) = .next t ∧ t.session.root = 8 ∧
    (List.range' 5 5).map t.session.slot =
      [innerOf 2 0 1, innerOf 4 2 3, innerOf 6 5 6, innerOf 11 4 7, NodeSlot.empty] :=
  exists_next (by decide +kernel)

/-- V18. -/
theorem test_buildTree_empty : ∃ t, exec .buildTree small = .next t ∧ t.errCode = .sequence ∧ t.errInfo = 0 :=
  exists_next (by decide +kernel)

/-- V24. -/
theorem test_genTable : ∃ t, exec .genTable (treeOf abracadabra) = .next t ∧
    t.session.codeOf 0x61 = some [false] ∧ t.session.codeOf 0x63 = some [true, false, false] ∧
    t.session.codeOf 0x64 = some [true, false, true] ∧ t.session.codeOf 0x62 = some [true, true, false] ∧
    t.session.codeOf 0x72 = some [true, true, true] ∧ t.session.codeOf 0x65 = none :=
  exists_next (by decide +kernel)

/-- V27. -/
theorem test_genTable_analyzed : ∃ t, exec .genTable (analyzed ab) = .next t ∧
    t.errCode = .sequence ∧ t.errInfo = 1 := exists_next (by decide +kernel)

/-- V43. -/
theorem test_encode : ∃ t, exec .encode { tabled with inBuf := [0x61, 0x62, 0x61, 0x62] } = .next t ∧
    t.outBuf = [0x1A] ∧ t.payloadBits = 4 ∧ t.padding = 4 := exists_next (by decide +kernel)

/-- The order of V46 and V47: the first failing byte decides. -/
theorem test_encode_unassigned : ∃ t, exec .encode { tabled with inBuf := [0x63, 0x80] } = .next t ∧
    t.errCode = .unassignedSymbol ∧ t.errInfo = 0 ∧ t.inBuf = [] := exists_next (by decide +kernel)

/-- V54. -/
theorem test_pack : ∃ t, exec .pack (withIn [0x31, 0x30, 0x31, 0x31]) = .next t ∧
    t.outBuf = [0x1B] ∧ t.payloadBits = 4 ∧ t.padding = 4 := exists_next (by decide +kernel)

/-- V58. -/
theorem test_pack_bad_char : ∃ t, exec .pack (withIn [0x31, 0x30, 0x32]) = .next t ∧
    t.errCode = .invalidBitChar ∧ t.errInfo = 2 ∧ t.outBuf = [] := exists_next (by decide +kernel)

/-- V62. -/
theorem test_unpack : ∃ t, exec .unpack (withIn [0x1B]) = .next t ∧
    t.outBuf = [0x31, 0x30, 0x31, 0x31] ∧ t.padding = 4 := exists_next (by decide +kernel)

/-- V66. -/
theorem test_unpack_no_header : ∃ t, exec .unpack (withIn [0x00, 0xFF]) = .next t ∧
    t.errCode = .headerNotFound ∧ t.errInfo = 0 := exists_next (by decide +kernel)

/-- V74. -/
theorem test_decode_residual : ∃ t, exec .decode { treeOf abracadabra with inBuf := [0xFF] } = .next t ∧
    t.outBuf = [0x72, 0x72] ∧ t.residual = true ∧ t.payloadBits = 7 ∧ t.padding = 1 :=
  exists_next (by decide +kernel)

/-- V71: the last code ends on the last bit. -/
theorem test_decode_flush : ∃ t, exec .decode { treeOf abracadabra with inBuf := [0xB7, 0x45, 0x6E] } = .next t ∧
    t.outBuf = abracadabra ∧ t.residual = false := exists_next (by decide +kernel)

/-! The register window and the events. -/

/-- V1's windows at INDEX 0x00 and 0xE1. -/
theorem test_window_node : (busRead 0x44 (analyzed aaab)).1 = 0xFFFF6203#32 ∧
    (busRead 0x40 { analyzed aaab with idx := 0xE1 }).1 = 3 ∧
    (busRead 0x44 { analyzed aaab with idx := 0xFF }).1 = 0 := by decide +kernel

/-- V24's windows at INDEX 0x62, by way of "aaab" (Program 1, lines 15 and 16). -/
theorem test_window_code : (busRead 0x4C { tabled with idx := 0x61 }).1 = 0x80000001#32 ∧
    (busRead 0x50 { tabled with idx := 0x61 }).1 = 0x80000000#32 := by decide +kernel

/-- V91. -/
theorem test_data_out : (busRead 0x1C { small with outBuf := [0x1E] }).1 = 0x8000001E#32 ∧
    (busRead 0x1C { small with outBuf := [0x1E] }).2.outBuf = [] ∧ (busRead 0x1C small).1 = 0 := by decide +kernel

/-- V92: the byte is bits 7:0. -/
theorem test_data_in : (busWrite 0x18 0x161 small).inBuf = [0x61] := by decide +kernel

/-- V93. -/
theorem test_status_w1c : (busWrite 0x08 0x200 { small with done := true, hazard := true }).statusWord = 0x02 := by
  decide +kernel

/-- V95 (b): a CMD write while BUSY = 1 is dropped and sets HAZARD. -/
theorem test_hazard : ∃ t, step { small with
      busy := true, pending := 2, schedule := scriptEvents small.params [.cmd .buildTree] } = .next t ∧
    t.pending = 2 ∧ t.hazard = true := exists_next (by decide +kernel)

/-- R111: `run NOP` is the CMD write and the wait. -/
theorem test_script_run : scriptEvents small.params [.run .nop 1] =
    [.busWrite 0x10C 0, .busRead 0x108, .core, .busRead 0x108] := by decide

/-- The word placed by `withFetchWord` is what the next step runs: ANALYZE of the empty operand (V9). -/
theorem test_withFetchWord : ∃ t, step (State.reset.withFetchWord 32 2) = .next t ∧
    t.errCode = .emptySource ∧ t.busy = false ∧ t.done = true := exists_next (by decide +kernel)

/-! Witnesses: for each statement, a state and operands that meet its hypotheses together. -/

theorem witness_IllegalWordCompletes :
    (({ small with busy := true, pending := 0x9 } : State).busy = true ∧ IsIllegalWord 0x9) ∧
    IsIllegalWord 0x10 ∧ IsIllegalWord 0xF ∧ ¬ IsIllegalWord 0x8 := by decide

theorem witness_StepRunsPendingCommand :
    ({ small with busy := true, pending := 8 } : State).busy = true ∧ decode 8 = .ok .decode := by decide

theorem witness_IdleCoreMakesNoStep : small.busy = false := by decide

theorem witness_HostTransactionsReachWindow : 0xFF < small.params.base := by decide

theorem witness_OverflowedInputFails :
    IsConsuming .unpack ∧ ({ small with inOvf := true } : State).inOvf = true := by decide

theorem witness_DisallowedPhaseFails_consuming :
    phaseAfter .encode built.session.phase = none ∧ IsConsuming .encode ∧ built.inOvf = false := by decide +kernel

theorem witness_DisallowedPhaseFails_other :
    phaseAfter .genTable (analyzed ab).session.phase = none ∧ ¬ IsConsuming .genTable := by decide +kernel

theorem witness_PhasesFollowTable_success : ∃ t, exec .genTable built = .next t ∧
    t.errCode = .none ∧ phaseAfter .genTable built.session.phase ≠ none := exists_next (by decide +kernel)

theorem witness_PhasesFollowTable_failure : ∃ t, exec .genTable small = .next t ∧ t.errCode ≠ .none :=
  exists_next (by decide +kernel)

theorem witness_CompletionFields : ∃ t, exec .pack small = .next t ∧ t.errCode = .none :=
  exists_next (by decide +kernel)

theorem witness_FailureIsPrecise_consuming : ∃ t, exec .analyze small = .next t ∧
    t.errCode ≠ .none ∧ IsConsuming .analyze := exists_next (by decide +kernel)

theorem witness_FailureIsPrecise_other : ∃ t, exec .buildTree small = .next t ∧
    t.errCode ≠ .none ∧ ¬ IsConsuming .buildTree := exists_next (by decide +kernel)

theorem witness_ConsumingEmptiesInBuf_consuming : ∃ t, exec .analyze small = .next t ∧ IsConsuming .analyze :=
  exists_next (by decide +kernel)

theorem witness_ConsumingEmptiesInBuf_clear : ∃ t, exec .clear (withIn [1]) = .next t ∧ t.errCode = .none :=
  exists_next (by decide +kernel)

theorem witness_ConsumingEmptiesInBuf_nop : ∃ t, exec .nop (withIn [1]) = .next t ∧ t.inBuf = [1] :=
  exists_next (by decide +kernel)

theorem witness_ConsumingEmptiesInBuf_illegal : ∃ t,
    coreTurn { small with busy := true, pending := 0x9, inBuf := [1] } = .next t ∧ IsIllegalWord 0x9 :=
  exists_next (by decide +kernel)

theorem witness_ErrorCodesByCommand : ∃ t, exec .unpack small = .next t ∧
    small.outBuf.length ≤ small.params.outCap := exists_next (by decide +kernel)

/-- The boundary: one byte of output, OUT_CAP = 2, OutBuf of one byte (fits) and of two (does not). -/
theorem witness_OutputFitsOrOverflows : ∃ u,
    exec .pack { small with outBuf := [], params := { small.params with outCap := 2 } } = .next u ∧
    u.errCode = .none ∧ [0x00#8].length + u.outBuf.length ≤ 2 ∧ 2 < [0x00#8, 0x00#8].length + u.outBuf.length :=
  exists_next (by decide +kernel)

theorem witness_PackUnpackIgnoreSession : ∃ t, exec .unpack { tabled with inBuf := [0x1B] } = .next t ∧
    t.errCode = .none ∧ t.session.phase = .tabled ∧ tabled.session ≠ small.session := exists_next (by decide +kernel)

theorem witness_NopOnlyCompletes :
    small.outBuf.length ≤ small.params.outCap ∧ ({ small with irqEn := true } : State).irqEn = true := by decide

theorem witness_ClearEndsSession : tabled.outBuf.length ≤ tabled.params.outCap := by decide

theorem witness_AnalyzeCountsSymbols : (withIn [0x7F, 0x00]).inOvf = false ∧ (withIn [0x7F, 0x00]).inBuf ≠ [] ∧
    (∀ b ∈ (withIn [0x7F, 0x00]).inBuf, b.toNat < 0x80) ∧ (withIn [0x7F, 0x00]).inBuf.length < 2 ^ 32 ∧
    (withIn [0x7F, 0x00]).outBuf.length ≤ (withIn [0x7F, 0x00]).params.outCap := by decide

theorem witness_AnalyzeSortsRecords_two : (∃ a ∈ (withIn [0x7F, 0x00]).inBuf, ∃ b ∈ (withIn [0x7F, 0x00]).inBuf,
    a ≠ b) := by decide

theorem witness_AnalyzeSortsRecords_one : (withIn [0x7F, 0x7F]).inBuf ≠ [] ∧
    (∀ b ∈ (withIn [0x7F, 0x7F]).inBuf, b.toNat < 0x80) ∧ ∀ a ∈ (withIn [0x7F, 0x7F]).inBuf, a = 0x7F := by decide

theorem witness_AnalyzeEmptySource : small.inOvf = false ∧ small.inBuf = [] := by decide

theorem witness_AnalyzeSymbolRange : (withIn [0x7F, 0x80, 0x00]).inOvf = false ∧
    (withIn [0x7F, 0x80, 0x00]).inBuf = [0x7F] ++ 0x80 :: [0x00] ∧ (∀ x ∈ [0x7F#8], x.toNat < 0x80) ∧
    0x80 ≤ (0x80#8).toNat := by decide

theorem witness_ProbabilitiesSumToOne : (withIn [0x7F]).inOvf = false ∧ (withIn [0x7F]).inBuf ≠ [] ∧
    (∀ b ∈ (withIn [0x7F]).inBuf, b.toNat < 0x80) ∧ (withIn [0x7F]).inBuf.length < 2 ^ 32 ∧
    (withIn [0x7F]).outBuf.length ≤ (withIn [0x7F]).params.outCap := by decide

/-- The clause on a synthetic leaf. -/
theorem witness_ProbabilitiesSumToOne_synthetic : ∃ t, exec .analyze (withIn [0x7F]) = .next t ∧
    (t.session.slot 0).synth = true := exists_next (by decide +kernel)

/-- The boundaries: 2 leaves and 128. -/
theorem witness_BuildTreeCompletes_two : (analyzed ab).session.phase ≠ .empty ∧
    (analyzed ab).session.nsym.toNat = 2 ∧ (analyzed ab).outBuf.length ≤ (analyzed ab).params.outCap := by
  decide +kernel

theorem witness_BuildTreeCompletes_all : ({ analyzedSession ab with nsym := 128 } : Session).nsym.toNat = 128 ∧
    ({ analyzedSession ab with nsym := 128 } : Session).phase ≠ .empty := by decide +kernel

theorem witness_BuildTreeShape : Inv (analyzed aabbbcccc) ∧ (analyzed aabbbcccc).session.phase ≠ .empty :=
  ⟨inv_analyzed_aabbbcccc, by decide +kernel⟩

/-- The first merge takes slots 0 and 1 and leaves slot 2 waiting (V15). -/
theorem witness_MergesTakeLightest : Inv (analyzed aabbbcccc) ∧ ∃ t, exec .buildTree (analyzed aabbbcccc) = .next t ∧
    t.session.nsym = 3 ∧ (t.session.slot 3).left = 0 ∧ (t.session.slot 3).right = 1 ∧ Waiting t.session 3 2 :=
  ⟨inv_analyzed_aabbbcccc, exists_next (by decide +kernel)⟩

/-- Leaves of equal weight, and internal nodes too: slots 4 and 5 of "abcd" wait when slot 6 is made, and go in slot
order (41_tree.md R141). -/
theorem witness_MergesTakeLightest_equal : ∃ t, exec .buildTree (analyzed [0x61, 0x62, 0x63, 0x64]) = .next t ∧
    (t.session.slot 0).weight = (t.session.slot 1).weight ∧ (t.session.slot 4).weight = (t.session.slot 5).weight ∧
    Waiting t.session 6 4 ∧ Waiting t.session 6 5 ∧ (t.session.slot 6).left = 4 ∧ (t.session.slot 6).right = 5 :=
  exists_next (by decide +kernel)

/-- Two different states with the same leaves: phases ANALYZED and TABLED. -/
theorem witness_TreeDependsOnLeavesOnly : (analyzed aaab).session.nsym = tabled.session.nsym ∧
    (∀ i < tabled.session.nsym.toNat, (analyzed aaab).session.slot i = tabled.session.slot i) ∧
    (∃ t, exec .buildTree tabled = .next t ∧ t.errCode = .none) ∧
    ∃ t, exec .buildTree (analyzed aaab) = .next t ∧ t.errCode = .none :=
  ⟨by decide +kernel, by decide +kernel, exists_next (by decide +kernel), exists_next (by decide +kernel)⟩

theorem witness_GenTableAssignsPaths_built : Inv built ∧ built.session.phase = .built := ⟨inv_built, rfl⟩

theorem witness_GenTableAssignsPaths_tabled : Inv tabled ∧ tabled.session.phase = .tabled := ⟨inv_tabled, rfl⟩

theorem witness_CodeLengthsBounded : Inv tabled ∧ tabled.session.phase = .tabled ∧
    tabled.session.codeOf 0x61 = some [true] := ⟨inv_tabled, rfl, by decide +kernel⟩

theorem witness_CodesPrefixFree : Inv tabled ∧ tabled.session.phase = .tabled ∧
    tabled.session.codeOf 0x61 = some [true] ∧ tabled.session.codeOf 0x62 = some [false] ∧ 0x61#7 ≠ 0x62#7 :=
  ⟨inv_tabled, rfl, by decide +kernel, by decide +kernel, by decide⟩

theorem witness_KraftEquality : Inv tabled ∧ tabled.session.phase = .tabled := ⟨inv_tabled, rfl⟩

theorem witness_EncodeEmitsPackedCodes : tabled.session.phase = .tabled ∧ tabled.inOvf = false ∧
    List.Forall₂ (fun b c => b.toNat < 0x80 ∧ tabled.session.codeOf (BitVec.ofNat 7 b.toNat) = some c)
      [0x61#8, 0x62#8] [[true], [false]] ∧
    tabled.outBuf.length + ([[true], [false]].flatten.length / 8 + 1) ≤ tabled.params.outCap :=
  ⟨rfl, rfl, .cons (by decide +kernel) (.cons (by decide +kernel) .nil), by decide⟩

theorem witness_EncodeFirstFailingByte : tabled.session.phase = .tabled ∧ tabled.inOvf = false ∧ tabled.inBuf = [] ∧
    (∀ x ∈ [0x61#8], x.toNat < 0x80 ∧ tabled.session.codeOf (BitVec.ofNat 7 x.toNat) ≠ none) ∧
    0x80 ≤ (0x80#8).toNat ∧ (0x7F#8).toNat < 0x80 ∧ tabled.session.codeOf 0x7F = none := by decide +kernel

theorem witness_PackEmitsStream : (withIn (bitChars [true, false])).inOvf = false ∧
    (withIn (bitChars [true, false])).inBuf = bitChars [true, false] ∧
    small.outBuf.length + ([true, false].length / 8 + 1) ≤ small.params.outCap := by decide

theorem witness_PackRejectsBadChar : (withIn [0x30, 0x31, 0x32]).inOvf = false ∧
    (withIn [0x30, 0x31, 0x32]).inBuf = [0x30, 0x31] ++ 0x32 :: [] ∧
    (∀ x ∈ [0x30#8, 0x31#8], x = 0x30#8 ∨ x = 0x31#8) ∧ 0x32#8 ≠ 0x30#8 ∧ 0x32#8 ≠ 0x31#8 := by decide

theorem witness_PackRejectsBadChar_encode : ∃ t, exec .encode tabled = .next t ∧ t.errCode = .emptySource :=
  exists_next (by decide +kernel)

/-- The boundaries: a header of 8 bits (V60) and of 1 bit (V63). -/
theorem witness_UnpackEmitsPayload :
    specUnpack (withIn [0x01]).inBuf = List.replicate (8 - 1) false ++ true :: [] ∧
    specUnpack (withIn [0x80]).inBuf = List.replicate (1 - 1) false ++ true :: List.replicate 7 false ∧
    small.inOvf = false ∧ small.outBuf.length + 7 ≤ small.params.outCap := by decide +kernel

theorem witness_HeaderNotFound : built.inOvf = false ∧ built.inBuf = [] ∧ built.session.phase = .built ∧
    ({ built with inBuf := [0x00, 0xFF] } : State).inBuf = 0x00#8 :: [0xFF] := by decide +kernel

theorem witness_PackUnpackRoundTrip : (withIn (bitChars [true])).inBuf = bitChars [true] ∧
    [true].length ≤ (withIn (bitChars [true])).params.outCap ∧
    ∃ t, exec .pack (withIn (bitChars [true])) = .next t ∧ t.errCode = .none :=
  ⟨rfl, by decide, exists_next (by decide +kernel)⟩

theorem inv_tabled_in : Inv { tabled with inBuf := [0x61, 0x62] } := { inv_tabled with inBuf_le := by decide, overflow := nofun }

theorem inv_built_in : Inv { built with inBuf := [0x1E] } := { inv_built with inBuf_le := by decide, overflow := nofun }

theorem witness_DecodeIsGreedyParse : Inv { built with inBuf := [0x1E] } ∧ built.session.phase = .built ∧
    built.inOvf = false ∧ specUnpack [0x1E] = List.replicate (4 - 1) false ++ true :: [true, true, true, false] :=
  ⟨inv_built_in, rfl, rfl, by decide +kernel⟩

/-- Its two clauses at the boundary: four codes with room for four symbols, and for three. -/
theorem witness_DecodeIsGreedyParse_fits : ∃ t, exec .decode
      { built with inBuf := [0x1E], params := { small.params with outCap := 4 } } = .next t ∧
    t.outBuf = [0x61, 0x61, 0x61, 0x62] := exists_next (by decide +kernel)

theorem witness_DecodeIsGreedyParse_overflows : ∃ t, exec .decode
      { built with inBuf := [0x1E], params := { small.params with outCap := 3 } } = .next t ∧
    t.errCode = .outOverflow ∧ t.errInfo = 4 := exists_next (by decide +kernel)

theorem witness_DecodeInvertsEncode : Inv { tabled with inBuf := [0x61, 0x62] } ∧ tabled.session.phase = .tabled ∧
    [0x61#8, 0x62#8].length ≤ tabled.params.outCap ∧
    ∃ t, exec .encode { tabled with inBuf := [0x61, 0x62] } = .next t ∧ t.errCode = .none :=
  ⟨inv_tabled_in, rfl, by decide, exists_next (by decide +kernel)⟩

theorem witness_SessionRoundTrip : Inv { tabled with inBuf := [0x61, 0x62] } ∧ tabled.inOvf = false ∧
    (∀ b ∈ [0x61#8, 0x62#8], b.toNat < 0x80) ∧ [0x61#8, 0x62#8].length ≤ tabled.params.outCap :=
  ⟨inv_tabled_in, rfl, by decide, by decide⟩

theorem witness_UnmappedAccess : (0x02 % 4 ≠ 0 ∨ 0x68 ≤ 0x02) ∧ (0x68 % 4 ≠ 0 ∨ 0x68 ≤ 0x68) ∧
    (0xFC % 4 ≠ 0 ∨ 0x68 ≤ 0xFC) ∧ ¬ (0x64 % 4 ≠ 0 ∨ 0x68 ≤ 0x64) := by decide

theorem witness_ReadsWhileBusy : ({ small with busy := true } : State).busy = true ∧
    ∀ off ∈ [0x10, 0x14, 0x20, 0x38, 0x40, 0x5C],
      off % 4 = 0 ∧ (off = 0x10 ∨ off = 0x14 ∨ 0x20 ≤ off ∧ off ≤ 0x38 ∨ 0x40 ≤ off ∧ off ≤ 0x5C) := by decide

theorem witness_WritesWhileBusy : ({ small with busy := true } : State).busy = true := by decide

theorem witness_CmdWriteAccepted : small.busy = false ∧ ({ small with busy := true } : State).busy = true := by decide

/-- The boundary: one byte short of IN_CAP = 1, and full. -/
theorem witness_DataInAppends : small.busy = false ∧ small.inBuf.length < 1 ∧ 1 ≤ (withIn [0x61]).inBuf.length ∧
    (withIn [0x61]).busy = false ∧ ({ small with busy := true } : State).busy = true := by decide

theorem witness_DataOutPops : ({ small with outBuf := [0xFF] } : State).busy = false ∧
    ({ small with outBuf := [0xFF] } : State).outBuf = 0xFF :: [] ∧ small.outBuf = [] ∧
    ({ small with busy := true } : State).busy = true := by decide

theorem witness_ReadOnlyWritesIgnored : ∀ off ∈ [0x00, 0x10, 0x14, 0x1C, 0x38, 0x40, 0x64],
    off = 0x00 ∨ off = 0x10 ∨ off = 0x14 ∨ 0x1C ≤ off ∧ off ≤ 0x38 ∨ 0x40 ≤ off := by decide

theorem witness_WindowReads : tabled.busy = false ∧ (tabled.session.slot 2).valid = true ∧
    (tabled.session.slot 3).valid = false ∧ tabled.session.codeOf (BitVec.ofNat 7 (0x61 % 128)) = some [true] ∧
    tabled.session.codeOf (BitVec.ofNat 7 (0x63 % 128)) = none := by decide +kernel

theorem witness_OnlyDataOutReadHasSideEffect : (0x10 : Nat) ≠ 0x1C := by decide

theorem witness_ResultReads : small.busy = false := by decide

theorem witness_InterruptLineChanges_falls : ({ small with irqEn := true, done := true } : State).irq = true ∧
    ∃ t, step { small with irqEn := true, done := true, schedule := [.busWrite 0x108 2] } = .next t ∧
      t.irq = false := ⟨rfl, exists_next (by decide +kernel)⟩

theorem witness_InterruptLineChanges_rises : ({ small with irqEn := true, busy := true } : State).irq = false ∧
    ∃ t, step { small with irqEn := true, busy := true } = .next t ∧ t.irq = true :=
  ⟨rfl, exists_next (by decide +kernel)⟩

theorem witness_TreeWrittenOnlyBy : ∃ t, step { tabled with busy := true, pending := 1 } = .next t ∧
    t.session.root ≠ tabled.session.root := exists_next (by decide +kernel)

theorem witness_ResetStateInv : Config.reference.wf = true := by decide

theorem witness_StepKeepsInv : Inv tabled ∧ ∃ t, step tabled = .next t ∧ t.schedule = [] :=
  ⟨inv_tabled, exists_next (by decide +kernel)⟩

theorem witness_StepsNeverStop : Inv built := inv_built

theorem inv_busy : Inv { tabled with busy := true, pending := 5, inBuf := [0x61, 0x62] } :=
  { inv_tabled with inBuf_le := by decide, busy_done := by decide, overflow := nofun }

theorem witness_PendingCommandCompletes :
    Inv { tabled with busy := true, pending := 5, inBuf := [0x61, 0x62] } := inv_busy

end Sys2Proof.Tests
end

section
/-! The dual-queue merge of BUILD_TREE: what every iteration keeps, that the loop ends, and the tree it leaves
(41_tree.md R140 to R150). -/

namespace Sys2Proof.Machine

/-! Slots. -/

/-- An index below 255 names the slot that `slotAt` reads. -/
theorem getElem?_eq_slotAt (N : Vector NodeSlot 255) {i : Nat} (hi : i < 255) : N[i]? = some (slotAt N i) := by
  simp [slotAt, hi]

/-- `getElem?_eq_slotAt` for the slots of a session. -/
theorem getElem?_node (S : Session) {i : Nat} (hi : i < 255) : S.node[i]? = some (S.slot i) :=
  getElem?_eq_slotAt S.node hi

/-- No slot is named by an index from 255 on (10_state.md R60). -/
theorem slotAt_of_ge (N : Vector NodeSlot 255) {i : Nat} (hi : 255 ≤ i) : slotAt N i = NodeSlot.empty := by
  simp [slotAt, Nat.not_lt.mpr hi]

/-! The loop. -/

/-- `take()` removes one node of the two queues and touches neither the slots nor the next free slot. -/
theorem MergeState.take_perm {q q' : MergeState} {x : Nat} (h : q.take = some (x, q')) :
    q'.node = q.node ∧ q'.next = q.next ∧ (q.source ++ q.target).Perm (x :: (q'.source ++ q'.target)) := by
  obtain ⟨hs, hq, -⟩ | ⟨ht, hq, -⟩ := MergeState.take_cases h
  · rw [hs, hq]
    exact ⟨rfl, rfl, .refl _⟩
  · rw [ht, hq]
    exact ⟨rfl, rfl, List.perm_middle⟩

/-- What every iteration keeps holds at the end of the loop, where the loop's end is reached (41_tree.md R145). -/
theorem mergeLoop_induct {P : MergeState → Prop}
    (hstep : ∀ q q1 q2 l r, P q → q.take = some (l, q1) → q1.take = some (r, q2) → P (q2.merge l r))
    {fuel : Nat} {q q' : MergeState} (hq : P q) (h : mergeLoop fuel q = some q') : P q' ∧ q'.finished = true := by
  induction fuel generalizing q with
  | zero =>
    rw [mergeLoop] at h
    split at h
    · rename_i hf
      cases h
      exact ⟨hq, hf⟩
    · cases h
  | succ fuel ih =>
    rw [mergeLoop] at h
    split at h
    · rename_i hf
      cases h
      exact ⟨hq, hf⟩
    · split at h
      · cases h
      · rename_i l q1 h1
        split at h
        · cases h
        · rename_i r q2 h2
          exact ih (hstep q q1 q2 l r hq h1 h2) h

/-- Two nodes can be taken when two are waiting (41_tree.md R146). -/
theorem MergeState.take_two {q : MergeState} (h : 2 ≤ (q.source ++ q.target).length) :
    ∃ l q1 r q2, q.take = some (l, q1) ∧ q1.take = some (r, q2) := by
  have nonempty : ∀ p : MergeState, 1 ≤ (p.source ++ p.target).length → p.source ≠ [] ∨ p.target ≠ [] := by
    intro p hp
    by_contra hc
    simp_all
  obtain ⟨⟨l, q1⟩, h1⟩ := MergeState.take_some (nonempty q (by omega))
  obtain ⟨-, -, hp⟩ := MergeState.take_perm h1
  have hlen := hp.length_eq
  rw [List.length_cons] at hlen
  obtain ⟨⟨r, q2⟩, h2⟩ := MergeState.take_some (nonempty q1 (by omega))
  exact ⟨l, q1, r, q2, h1, h2⟩

/-- The loop ends within as many iterations as there are merges left: each leaves one waiting node less
(41_tree.md R145, R146). -/
theorem mergeLoop_some {fuel : Nat} {q : MergeState} (ht : q.target ≠ [])
    (h : (q.source ++ q.target).length ≤ fuel + 1) : ∃ q', mergeLoop fuel q = some q' := by
  have htl := List.length_pos_iff.mpr ht
  induction fuel generalizing q with
  | zero =>
    rw [List.length_append] at h
    have hs : q.source = [] := List.length_eq_zero_iff.mp (by omega)
    exact ⟨q, by simp [mergeLoop, MergeState.finished, hs]; omega⟩
  | succ fuel ih =>
    by_cases hf : q.finished = true
    · exact ⟨q, by simp [mergeLoop, hf]⟩
    · have two : 2 ≤ (q.source ++ q.target).length := by
        by_contra hc
        rw [List.length_append] at hc
        have hs : q.source = [] := List.length_eq_zero_iff.mp (by omega)
        exact hf (by simp [MergeState.finished, hs]; omega)
      obtain ⟨l, q1, r, q2, h1, h2⟩ := MergeState.take_two two
      have len1 := (MergeState.take_perm h1).2.2.length_eq
      have len2 := (MergeState.take_perm h2).2.2.length_eq
      obtain ⟨q', hq'⟩ := ih (q := q2.merge l r) (by simp) (by simp at h len1 len2 ⊢; omega) (by simp)
      exact ⟨q', by simp [mergeLoop, hf, h1, h2, hq']⟩

/-! The state of the merge. -/

/-- The children of the `m` slots from `n` on, in slot order. -/
def childrenFrom (N : Vector NodeSlot 255) (n m : Nat) : List Nat :=
  (List.range' n m).flatMap fun k => [(slotAt N k).left.toNat, (slotAt N k).right.toNat]

@[simp] theorem childrenFrom_zero (N : Vector NodeSlot 255) (n : Nat) : childrenFrom N n 0 = [] := rfl

/-- One slot more. -/
theorem childrenFrom_succ (N : Vector NodeSlot 255) (n m : Nat) : childrenFrom N n (m + 1) =
    childrenFrom N n m ++ [(slotAt N (n + m)).left.toNat, (slotAt N (n + m)).right.toNat] := by
  simp [childrenFrom, List.range'_1_concat]

/-- Only the slots in the range matter. -/
theorem childrenFrom_congr {N N' : Vector NodeSlot 255} {n m : Nat}
    (h : ∀ k, n ≤ k → k < n + m → slotAt N k = slotAt N' k) : childrenFrom N n m = childrenFrom N' n m := by
  refine List.flatMap_congr fun k hk => ?_
  obtain ⟨hge, hlt⟩ := List.mem_range'_1.mp hk
  rw [h k hge hlt]

/-- The children of a session's internal slots. -/
theorem Session.children_eq (S : Session) :
    S.children = childrenFrom S.node S.nsym.toNat (S.nsym.toNat - 1) := rfl

@[simp] theorem childrenFrom_length (N : Vector NodeSlot 255) (n m : Nat) : (childrenFrom N n m).length = 2 * m := by
  simp [childrenFrom, Nat.mul_comm]

/-- Slot `k` of the working copy is an internal node over two earlier slots (41_tree.md R140, R150). -/
structure InnerSlot (N : Vector NodeSlot 255) (k : Nat) : Prop where
  valid : (slotAt N k).valid = true
  leaf : (slotAt N k).leaf = false
  synth : (slotAt N k).synth = false
  sym : (slotAt N k).sym = 0#7
  left_lt : (slotAt N k).left.toNat < k
  right_lt : (slotAt N k).right.toNat < k

/-- The working copy of a merge over the leaves of `S` with the nodes `waiting` in the queues: the leaf slots are as
they were, the slots from there to the next free one are internal nodes, and every node made so far is either waiting
or a child exactly once (41_tree.md R140, R141). -/
structure MergeOk (S : Session) (q : MergeState) (waiting : List Nat) : Prop where
  next_ge : S.nsym.toNat ≤ q.next
  leaves : ∀ i < S.nsym.toNat, slotAt q.node i = S.slot i
  inner : ∀ k < q.next, S.nsym.toNat ≤ k → InnerSlot q.node k
  nodes : (childrenFrom q.node S.nsym.toNat (q.next - S.nsym.toNat) ++ waiting).Perm (List.range q.next)

variable {S : Session} {q q' : MergeState} {l r : Nat} {w w' : List Nat}

/-- The order of the waiting nodes does not matter. -/
theorem MergeOk.perm (h : MergeOk S q w) (hw : w.Perm w') : MergeOk S q w' :=
  { h with nodes := (hw.symm.append_left _).trans h.nodes }

/-- Only the slots and the next free slot matter. -/
theorem MergeOk.congr (h : MergeOk S q w) (hn : q'.node = q.node) (hx : q'.next = q.next) : MergeOk S q' w := by
  obtain ⟨h1, h2, h3, h4⟩ := h
  rw [← hn] at h2 h3 h4
  rw [← hx] at h1 h3 h4
  exact ⟨h1, h2, h3, h4⟩

/-- Each merge has left one waiting node less than there were leaves (41_tree.md R145). -/
theorem MergeOk.count (h : MergeOk S q w) : q.next + w.length = 2 * S.nsym.toNat := by
  have hl := h.nodes.length_eq
  have hge := h.next_ge
  rw [List.length_append, childrenFrom_length, List.length_range] at hl
  omega

/-- A waiting node is one of the nodes made so far. -/
theorem MergeOk.waiting_lt (h : MergeOk S q w) {i : Nat} (hi : i ∈ w) : i < q.next :=
  List.mem_range.mp (h.nodes.subset (List.mem_append_right _ hi))

/-- A slot after `merge` (41_tree.md R144). -/
theorem slotAt_merge (q : MergeState) (l r i : Nat) : slotAt (q.merge l r).node i =
    if i = q.next ∧ q.next < 255 then internalSlot (q.weight l + q.weight r) l r else slotAt q.node i := by
  rw [MergeState.merge_node, slotAt_set]

/-- `merge` leaves the slots below the next free one. -/
theorem slotAt_merge_of_lt (q : MergeState) (l r : Nat) {i : Nat} (hi : i < q.next) :
    slotAt (q.merge l r).node i = slotAt q.node i := by
  rw [slotAt_merge, if_neg (by omega)]

/-- `merge` writes the next free slot. -/
theorem slotAt_merge_next (l r : Nat) (hq : q.next < 255) :
    slotAt (q.merge l r).node q.next = internalSlot (q.weight l + q.weight r) l r := by
  rw [slotAt_merge, if_pos ⟨rfl, hq⟩]

/-- With two nodes waiting a slot is free (10_state.md R26). -/
theorem MergeOk.next_lt (hn : S.nsym.toNat ≤ 128) (h : MergeOk S q (l :: r :: w)) : q.next < 255 := by
  have hc := h.count
  simp only [List.length_cons] at hc
  omega

/-- Merging two waiting nodes (41_tree.md R140, R144). -/
theorem MergeOk.merge (hn : S.nsym.toNat ≤ 128) (h : MergeOk S q (l :: r :: w)) :
    MergeOk S (q.merge l r) (w ++ [q.next]) := by
  have hx := h.next_lt hn
  have hge := h.next_ge
  have hl : l < q.next := h.waiting_lt (by simp)
  have hr : r < q.next := h.waiting_lt (by simp)
  have hleft : (BitVec.ofNat 8 l).toNat = l := by simp; omega
  have hright : (BitVec.ofNat 8 r).toNat = r := by simp; omega
  refine ⟨by simp; omega, fun i hi => ?_, fun k hk hk' => ?_, ?_⟩
  · rw [slotAt_merge_of_lt q l r (by omega), h.leaves i hi]
  · by_cases he : k = q.next
    · subst he
      constructor <;> rw [slotAt_merge_next l r hx] <;> simp [internalSlot] <;> omega
    · have hlt : k < q.next := by simp at hk; omega
      obtain ⟨h1, h2, h3, h4, h5, h6⟩ := h.inner k hlt hk'
      rw [← slotAt_merge_of_lt q l r hlt] at h1 h2 h3 h4 h5 h6
      exact ⟨h1, h2, h3, h4, h5, h6⟩
  · have old : childrenFrom (q.merge l r).node S.nsym.toNat (q.next - S.nsym.toNat) =
        childrenFrom q.node S.nsym.toNat (q.next - S.nsym.toNat) :=
      childrenFrom_congr fun k _ hk => slotAt_merge_of_lt q l r (by omega)
    have hm : (q.merge l r).next - S.nsym.toNat = (q.next - S.nsym.toNat) + 1 := by simp; omega
    rw [hm, childrenFrom_succ, old, Nat.add_sub_cancel' hge, slotAt_merge_next l r hx, MergeState.merge_next,
      List.range_succ]
    simpa [internalSlot, hleft, hright] using h.nodes.append_right [q.next]

/-- Before the seed step every leaf is waiting (41_tree.md R141). -/
theorem mergeOk_start (S : Session) : MergeOk S (mergeStart S) (List.range S.nsym.toNat) where
  next_ge := Nat.le_refl _
  leaves := fun _ _ => rfl
  inner := fun _ hk hk' => absurd hk (Nat.not_lt.mpr hk')
  nodes := by simp [mergeStart]

/-! The weights. -/

/-- The weights of the working copy are exact: an internal node has the sum of its children's, and the waiting nodes
together the source's total (41_tree.md R144, R150; 40_analyze.md R128). -/
structure WeightsOk (S : Session) (q : MergeState) (waiting : List Nat) : Prop where
  inner : ∀ k < q.next, S.nsym.toNat ≤ k → (slotAt q.node k).weight.toNat =
    (slotAt q.node (slotAt q.node k).left.toNat).weight.toNat +
      (slotAt q.node (slotAt q.node k).right.toNat).weight.toNat
  total : (waiting.map fun i => (q.weight i).toNat).sum = S.total.toNat

/-- The order of the waiting nodes does not matter. -/
theorem WeightsOk.perm (h : WeightsOk S q w) (hw : w.Perm w') : WeightsOk S q w' :=
  { h with total := ((hw.symm.map _).sum_eq).trans h.total }

/-- Only the slots and the next free slot matter. -/
theorem WeightsOk.congr (h : WeightsOk S q w) (hn : q'.node = q.node) (hx : q'.next = q.next) : WeightsOk S q' w := by
  obtain ⟨h1, h2⟩ := h
  unfold MergeState.weight at h2
  rw [← hn] at h1 h2
  rw [← hx] at h1
  exact ⟨h1, h2⟩

/-- Two waiting nodes weigh no more than the total, so their sum does not wrap (40_analyze.md R128). -/
theorem WeightsOk.add_exact (h : WeightsOk S q (l :: r :: w)) :
    (q.weight l + q.weight r).toNat = (q.weight l).toNat + (q.weight r).toNat := by
  have ht := h.total
  have hlt := S.total.isLt
  simp only [List.map_cons, List.sum_cons] at ht
  exact BitVec.toNat_add_of_lt (by omega)

/-- Merging two waiting nodes (41_tree.md R144). -/
theorem WeightsOk.merge (hn : S.nsym.toNat ≤ 128) (hm : MergeOk S q (l :: r :: w)) (h : WeightsOk S q (l :: r :: w)) :
    WeightsOk S (q.merge l r) (w ++ [q.next]) := by
  have hx := hm.next_lt hn
  have hl : l < q.next := hm.waiting_lt (by simp)
  have hr : r < q.next := hm.waiting_lt (by simp)
  have old : ∀ i < q.next, (q.merge l r).weight i = q.weight i := fun i hi => by
    rw [MergeState.weight, slotAt_merge_of_lt q l r hi]; rfl
  have new : ((q.merge l r).weight q.next).toNat = (q.weight l).toNat + (q.weight r).toNat := by
    rw [MergeState.weight, slotAt_merge_next l r hx, ← h.add_exact]; rfl
  constructor
  · intro k hk hk'
    by_cases he : k = q.next
    · subst he
      rw [← MergeState.weight, new, slotAt_merge_next l r hx]
      have hleft : (BitVec.ofNat 8 l).toNat = l := by simp; omega
      have hright : (BitVec.ofNat 8 r).toNat = r := by simp; omega
      simp only [internalSlot, hleft, hright, slotAt_merge_of_lt q l r hl, slotAt_merge_of_lt q l r hr]
      rfl
    · have hlt : k < q.next := by simp at hk; omega
      have hi := hm.inner k hlt hk'
      rw [slotAt_merge_of_lt q l r hlt, slotAt_merge_of_lt q l r (hi.left_lt.trans hlt),
        slotAt_merge_of_lt q l r (hi.right_lt.trans hlt)]
      exact h.inner k hlt hk'
  · have keep : (w.map fun i => ((q.merge l r).weight i).toNat) = w.map fun i => (q.weight i).toNat :=
      List.map_congr_left fun i hi => by rw [old i (hm.waiting_lt (by simp [hi]))]
    have ht := h.total
    simp only [List.map_cons, List.sum_cons] at ht
    simp only [List.map_append, List.sum_append, List.map_cons, List.map_nil, List.sum_cons, List.sum_nil, keep, new]
    omega

/-- Before the seed step the leaves weigh the total (40_analyze.md R130). -/
theorem weightsOk_start {cap : Nat} (h : LeavesOk cap S) :
    WeightsOk S (mergeStart S) (List.range S.nsym.toNat) where
  inner := fun _ hk hk' => absurd hk (Nat.not_lt.mpr hk')
  total := h.leaf_sum

/-! The whole command. -/

/-- The leaves, the first two of them in front. -/
theorem range_eq_two_cons {n : Nat} (hn : 2 ≤ n) : List.range n = 0 :: 1 :: List.range' 2 (n - 2) := by
  obtain ⟨m, rfl⟩ := Nat.exists_eq_add_of_le hn
  simp [Nat.add_comm 2 m, List.range_eq_range', List.range'_succ]

/-- The state after the seed step: the first two leaves merged (41_tree.md R142). -/
def seeded (S : Session) : MergeState :=
  ({ mergeStart S with source := List.range' 2 (S.nsym.toNat - 2) } : MergeState).merge 0 1

/-- The seed step answers `seeded` where there are two leaves (41_tree.md R142). -/
theorem seedStep_eq (hn : 2 ≤ S.nsym.toNat) : seedStep (mergeStart S) = some (seeded S) := by
  have hr : (mergeStart S).source = 0 :: 1 :: List.range' 2 (S.nsym.toNat - 2) := range_eq_two_cons hn
  simp [seedStep, hr, seeded]

/-- BUILD_TREE answers for every 2 to 128 leaves (41_tree.md R146). -/
theorem buildTree_some (h2 : 2 ≤ S.nsym.toNat) (hn : S.nsym.toNat ≤ 128) : ∃ S', buildTree S = some S' := by
  have hlen : ((seeded S).source ++ (seeded S).target).length ≤ S.nsym.toNat + 1 := by
    simp [seeded, mergeStart]
  obtain ⟨q', hq'⟩ := mergeLoop_some (q := seeded S) (by simp [seeded]) hlen
  exact ⟨builtSession S q', by simp [buildTree, h2, hn, seedStep_eq h2, hq']⟩

/-- What the seed step establishes and every iteration keeps holds of the merge state BUILD_TREE commits. -/
theorem buildTree_induct {P : MergeState → Prop} {S' : Session}
    (hseed : 2 ≤ S.nsym.toNat → S.nsym.toNat ≤ 128 → P (seeded S))
    (hstep : S.nsym.toNat ≤ 128 → ∀ q q1 q2 l r,
      P q → q.take = some (l, q1) → q1.take = some (r, q2) → P (q2.merge l r))
    (h : buildTree S = some S') : ∃ q, P q ∧ q.finished = true ∧ S' = builtSession S q := by
  unfold buildTree at h
  split at h
  · rename_i hn
    rw [seedStep_eq hn.1] at h
    cases hq : mergeLoop S.nsym.toNat (seeded S) with
    | none => simp [hq] at h
    | some q =>
      obtain ⟨hP, hf⟩ := mergeLoop_induct (hstep hn.2) (hseed hn.1 hn.2) hq
      exact ⟨q, hP, hf, by simpa [hq] using h.symm⟩
  · cases h

/-- The merge invariant over the two queues, the newest node being the last of target and the tentative root
(41_tree.md R140, R144). -/
structure QueuesOk (S : Session) (q : MergeState) : Prop where
  slots : MergeOk S q (q.source ++ q.target)
  newest : q.target.getLast? = some q.root
  root_succ : q.root + 1 = q.next

/-- Two takes remove two waiting nodes and touch neither the slots nor the next free slot. -/
theorem MergeState.take_take_perm {q q1 q2 : MergeState} {l r : Nat} (h1 : q.take = some (l, q1))
    (h2 : q1.take = some (r, q2)) : q2.node = q.node ∧ q2.next = q.next ∧
      (q.source ++ q.target).Perm (l :: r :: (q2.source ++ q2.target)) := by
  obtain ⟨n1, x1, p1⟩ := MergeState.take_perm h1
  obtain ⟨n2, x2, p2⟩ := MergeState.take_perm h2
  exact ⟨n2.trans n1, x2.trans x1, p1.trans (p2.cons l)⟩

/-- The slots after the seed step. -/
theorem mergeOk_seeded (h2 : 2 ≤ S.nsym.toNat) (hn : S.nsym.toNat ≤ 128) :
    MergeOk S (seeded S) ((seeded S).source ++ (seeded S).target) := by
  have h := mergeOk_start S
  rw [range_eq_two_cons h2] at h
  exact MergeOk.merge (q := { mergeStart S with source := _ }) hn (h.congr rfl rfl)

/-- The queues after the seed step. -/
theorem queuesOk_seeded (h2 : 2 ≤ S.nsym.toNat) (hn : S.nsym.toNat ≤ 128) : QueuesOk S (seeded S) :=
  ⟨mergeOk_seeded h2 hn, rfl, rfl⟩

/-- An iteration keeps the queues' invariant. -/
theorem QueuesOk.iterate (hn : S.nsym.toNat ≤ 128) {q1 q2 : MergeState} (h : QueuesOk S q)
    (h1 : q.take = some (l, q1)) (h2 : q1.take = some (r, q2)) : QueuesOk S (q2.merge l r) := by
  obtain ⟨hnode, hnext, hp⟩ := MergeState.take_take_perm h1 h2
  have hm := ((h.slots.perm hp).congr hnode hnext).merge hn
  exact ⟨by simpa using hm, by simp, by simp⟩

/-- When the loop has ended only the root is left waiting (41_tree.md R145). -/
theorem QueuesOk.of_finished (h : QueuesOk S q) (hf : q.finished = true) :
    q.source ++ q.target = [q.root] := by
  simp only [MergeState.finished, Bool.and_eq_true, List.isEmpty_iff, decide_eq_true_eq] at hf
  obtain ⟨hs, ht⟩ := hf
  have hnew := h.newest
  cases htq : q.target with
  | nil => simp [htq] at hnew
  | cons t rest =>
    have hrest : rest = [] := by simpa [htq] using ht
    simp_all

/-- A finished merge: the root is slot 2n - 2 and the only node without a parent (41_tree.md R145). -/
theorem QueuesOk.final (h : QueuesOk S q) (hf : q.finished = true) :
    MergeOk S q [q.root] ∧ q.root = 2 * S.nsym.toNat - 2 ∧ q.next = 2 * S.nsym.toNat - 1 := by
  have hm := h.slots
  rw [h.of_finished hf] at hm
  have hc := hm.count
  have hr := h.root_succ
  rw [List.length_singleton] at hc
  exact ⟨hm, by omega, by omega⟩

/-- The weights after the seed step. -/
theorem weightsOk_seeded {cap : Nat} (h : LeavesOk cap S) :
    WeightsOk S (seeded S) ((seeded S).source ++ (seeded S).target) := by
  have hm := mergeOk_start S
  have hw := weightsOk_start h
  rw [range_eq_two_cons h.nsym_ge] at hm hw
  exact WeightsOk.merge (q := { mergeStart S with source := _ }) h.nsym_le (hm.congr rfl rfl) (hw.congr rfl rfl)

/-- An iteration keeps the weights exact. -/
theorem WeightsOk.iterate (hn : S.nsym.toNat ≤ 128) {q1 q2 : MergeState} (hq : QueuesOk S q)
    (h : WeightsOk S q (q.source ++ q.target)) (h1 : q.take = some (l, q1)) (h2 : q1.take = some (r, q2)) :
    WeightsOk S (q2.merge l r) ((q2.merge l r).source ++ (q2.merge l r).target) := by
  obtain ⟨hnode, hnext, hp⟩ := MergeState.take_take_perm h1 h2
  have hw := WeightsOk.merge hn ((hq.slots.perm hp).congr hnode hnext) ((h.perm hp).congr hnode hnext)
  simpa using hw

/-- What BUILD_TREE commits over the leaves of an analysis: a finished merge with exact weights (41_tree.md R145). -/
theorem buildTree_final {cap : Nat} {S' : Session} (hl : LeavesOk cap S) (h : buildTree S = some S') :
    ∃ q, S' = builtSession S q ∧ QueuesOk S q ∧ q.finished = true ∧ WeightsOk S q [q.root] := by
  obtain ⟨q, ⟨hq, hw⟩, hf, hS⟩ :=
    buildTree_induct (P := fun q => QueuesOk S q ∧ WeightsOk S q (q.source ++ q.target))
      (fun h2 hn => ⟨queuesOk_seeded h2 hn, weightsOk_seeded hl⟩)
      (fun hn _ _ _ _ _ hP h1 h2 => ⟨hP.1.iterate hn h1 h2, hP.2.iterate hn hP.1 h1 h2⟩) h
  exact ⟨q, hS, hq, hf, hq.of_finished hf ▸ hw⟩

/-! The fields of the session BUILD_TREE commits (by rewriting: `rfl` would compare the whole node arrays). -/

@[simp] theorem builtSession_count (S : Session) (q : MergeState) : (builtSession S q).count = S.count := by
  rw [builtSession]

@[simp] theorem builtSession_total (S : Session) (q : MergeState) : (builtSession S q).total = S.total := by
  rw [builtSession]

@[simp] theorem builtSession_nsym (S : Session) (q : MergeState) : (builtSession S q).nsym = S.nsym := by
  rw [builtSession]

@[simp] theorem builtSession_root (S : Session) (q : MergeState) :
    (builtSession S q).root = BitVec.ofNat 8 q.root := by rw [builtSession]

@[simp] theorem builtSession_table (S : Session) (q : MergeState) : (builtSession S q).table = noCodes := by
  rw [builtSession]

@[simp] theorem builtSession_phase (S : Session) (q : MergeState) : (builtSession S q).phase = .built := by
  rw [builtSession]

/-- A slot of the session BUILD_TREE commits. -/
theorem slot_builtSession (S : Session) (q : MergeState) (i : Nat) :
    (builtSession S q).slot i = if i < q.next then slotAt q.node i else NodeSlot.empty :=
  slotAt_clearFrom q.node q.next i

/-- The leaves are a matter of the counts, the total and the leaf slots. -/
theorem LeavesOk.congr {cap : Nat} {S' : Session} (h : LeavesOk cap S) (hc : S'.count = S.count)
    (ht : S'.total = S.total) (hn : S'.nsym = S.nsym) (hs : ∀ i < S.nsym.toNat, S'.slot i = S.slot i) :
    LeavesOk cap S' := by
  have hco : ∀ c, S'.countOf c = S.countOf c := fun c => by rw [Session.countOf, hc]; rfl
  have h2 := h.nsym_ge
  constructor <;> simp only [hn, ht]
  case nsym_ge => exact h.nsym_ge
  case nsym_le => exact h.nsym_le
  case total_pos => exact h.total_pos
  case total_le => exact h.total_le
  case leaf => intro i hi; rw [hs i hi]; exact h.leaf i hi
  case ordered => intro j hj i hi; rw [hs i (hi.trans hj), hs j hj]; exact h.ordered j hj i hi
  case weight_count => intro i hi; rw [hs i hi, hco]; exact h.weight_count i hi
  case synth_iff => intro i hi; rw [hs i hi]; exact h.synth_iff i hi
  case synth_first => intro i hi; rw [hs i hi, hs 0 (by omega), hs 1 (by omega)]; exact h.synth_first i hi
  case covered =>
    intro c hcl
    rw [hco]
    refine (h.covered c hcl).imp_right fun ⟨i, hi, hsym⟩ => ⟨i, hi, ?_⟩
    rw [hs i (List.mem_range.mp hi), hsym]
  case leaf_sum =>
    rw [← h.leaf_sum]
    exact congrArg List.sum (List.map_congr_left fun i hi => by rw [hs i (List.mem_range.mp hi)])

/-- BUILD_TREE keeps the leaves (41_tree.md R140). -/
theorem MergeOk.leavesOk {cap : Nat} (hm : MergeOk S q w) (hl : LeavesOk cap S) : LeavesOk cap (builtSession S q) :=
  hl.congr (builtSession_count S q) (builtSession_total S q) (builtSession_nsym S q) fun i hi => by
    rw [slot_builtSession, if_pos (hi.trans_le hm.next_ge), hm.leaves i hi]

/-- A finished merge is a tree over the leaves (41_tree.md R145, R150). -/
theorem QueuesOk.treeOk (hn : S.nsym.toNat ≤ 128) (hq : QueuesOk S q) (hf : q.finished = true)
    (hw : WeightsOk S q [q.root]) : TreeOk (builtSession S q) := by
  obtain ⟨hm, hroot, hnext⟩ := hq.final hf
  have hge := hm.next_ge
  have hlt : q.root < q.next := hm.waiting_lt (by simp)
  have made : ∀ k < q.next, (builtSession S q).slot k = slotAt q.node k := fun k hk => by
    rw [slot_builtSession, if_pos hk]
  have hrootNat : (builtSession S q).root.toNat = q.root := by
    rw [builtSession_root, BitVec.toNat_ofNat]
    omega
  constructor <;> simp only [builtSession_nsym, builtSession_total, ← hnext]
  case root_slot => exact hrootNat.trans hroot
  case inner =>
    intro k hk hk'
    obtain ⟨h1, h2, h3, h4, h5, h6⟩ := hm.inner k hk hk'
    rw [made k hk, made _ (h5.trans hk), made _ (h6.trans hk)]
    exact ⟨h1, h2, h3, h4, h5, h6, hw.inner k hk hk'⟩
  case parents =>
    have hch : (builtSession S q).children = childrenFrom q.node S.nsym.toNat (q.next - S.nsym.toNat) := by
      rw [Session.children_eq, builtSession_nsym, show q.next - S.nsym.toNat = S.nsym.toNat - 1 by omega]
      exact childrenFrom_congr fun k _ hk => made k (by omega)
    have hp := hm.nodes
    rw [← hch, ← hq.root_succ, List.range_succ, List.perm_append_right_iff, hroot] at hp
    exact hp
  case root_weight =>
    rw [hrootNat, made _ hlt]
    exact BitVec.eq_of_toNat_eq (by simpa [MergeState.weight] using hw.total)
  case unused =>
    intro j _ hj
    rw [slot_builtSession, if_neg (Nat.not_lt.mpr hj)]

/-- BUILD_TREE over the leaves of an analysis leaves a session that is in order in phase BUILT (41_tree.md R150). -/
theorem buildTree_sessionOk {cap : Nat} {S' : Session} (hl : LeavesOk cap S) (h : buildTree S = some S') :
    SessionOk cap S' := by
  obtain ⟨q, rfl, hq, hf, hw⟩ := buildTree_final hl h
  rw [SessionOk, builtSession_phase]
  exact ⟨(hq.final hf).1.leavesOk hl, hq.treeOk hl.nsym_le hf hw, builtSession_table S q⟩

end Sys2Proof.Machine
end

section
/-! GEN_TABLE's traversal and DECODE's walk end on every tree of BUILD_TREE (42_table.md R164, 44_decode.md R203). -/

namespace Sys2Proof.Machine

/-! What a session in order holds in each phase. -/

variable {cap : Nat} {S : Session}

/-- Past phase EMPTY the session holds an analysis (10_state.md R24). -/
theorem SessionOk.leavesOk (h : SessionOk cap S) (hp : S.phase ≠ .empty) : LeavesOk cap S := by
  unfold SessionOk at h
  split at h
  · contradiction
  · exact h.1
  · exact h.1
  · exact h.1

/-- In phases BUILT and TABLED the session holds a tree (10_state.md R24). -/
theorem SessionOk.treeOk (h : SessionOk cap S) (hp : S.phase = .built ∨ S.phase = .tabled) : TreeOk S := by
  obtain hp | hp := hp <;> rw [SessionOk, hp] at h
  all_goals
    obtain ⟨-, ht, -⟩ := h
    exact ht

/-- The phases that hold a tree hold an analysis. -/
theorem SessionOk.leavesOk_of_tree (h : SessionOk cap S) (hp : S.phase = .built ∨ S.phase = .tabled) :
    LeavesOk cap S :=
  h.leavesOk (by obtain hp | hp := hp <;> rw [hp] <;> decide)

/-! The nodes of a tree. -/

/-- Slot `i` is a node of the tree (41_tree.md R145). -/
abbrev IsNode (S : Session) (i : Nat) : Prop := i < 2 * S.nsym.toNat - 1

/-- A node's index names a slot (10_state.md R26). -/
theorem LeavesOk.slot_of_isNode (hl : LeavesOk cap S) {i : Nat} (hi : IsNode S i) : S.node[i]? = some (S.slot i) := by
  have hn := hl.nsym_le
  exact getElem?_node S (by omega)

/-- A node that is no leaf has two children, both nodes in earlier slots (41_tree.md R150). -/
theorem TreeOk.children_lt (ht : TreeOk S) (hl : LeavesOk cap S) {i : Nat} (hi : IsNode S i)
    (hf : (S.slot i).leaf = false) : (S.slot i).left.toNat < i ∧ (S.slot i).right.toNat < i := by
  have hin : S.nsym.toNat ≤ i := by
    by_contra hc
    obtain ⟨-, hleaf, -, -⟩ := hl.leaf i (Nat.lt_of_not_le hc)
    simp [hleaf] at hf
  obtain ⟨-, -, -, -, hleft, hright, -⟩ := ht.inner i hi hin
  exact ⟨hleft, hright⟩

/-- The child a bit leads to is a node in an earlier slot. -/
theorem TreeOk.child_lt (ht : TreeOk S) (hl : LeavesOk cap S) {i : Nat} (hi : IsNode S i)
    (hf : (S.slot i).leaf = false) (b : Bool) :
    (if b then (S.slot i).right else (S.slot i).left).toNat < i := by
  obtain ⟨hleft, hright⟩ := ht.children_lt hl hi hf
  cases b
  · exact hleft
  · exact hright

/-- The root is a node (41_tree.md R145). -/
theorem TreeOk.root_isNode (ht : TreeOk S) (hl : LeavesOk cap S) : IsNode S S.root.toNat := by
  have hn := hl.nsym_ge
  have hr := ht.root_slot
  unfold IsNode
  omega

/-- The root is no leaf (41_tree.md R150 (d)). -/
theorem TreeOk.root_inner (ht : TreeOk S) (hl : LeavesOk cap S) : (S.slot S.root.toNat).leaf = false := by
  have hn := hl.nsym_ge
  have hr := ht.root_slot
  obtain ⟨-, hleaf, -⟩ := ht.inner S.root.toNat (ht.root_isNode hl) (by omega)
  exact hleaf

/-! GEN_TABLE. -/

/-- The traversal from a node ends when the fuel exceeds the node's index, the children's being lower
(42_table.md R164, 41_tree.md R150 (f)). -/
theorem leafPaths_some (ht : TreeOk S) (hl : LeavesOk cap S) {fuel i : Nat} (hi : IsNode S i) (hf : i < fuel)
    (p : Bits) : ∃ ps, leafPaths S.node fuel i p = some ps := by
  induction fuel generalizing i p with
  | zero => omega
  | succ fuel ih =>
    rw [leafPaths, hl.slot_of_isNode hi]
    by_cases hleaf : (S.slot i).leaf = true
    · exact ⟨[((S.slot i).sym, p)], by simp [hleaf]⟩
    · obtain ⟨hleft, hright⟩ := ht.children_lt hl hi (by simpa using hleaf)
      obtain ⟨a, ha⟩ := ih (hleft.trans hi) (by omega) (p ++ [false])
      obtain ⟨b, hb⟩ := ih (hright.trans hi) (by omega) (p ++ [true])
      exact ⟨a ++ b, by simp [hleaf, ha, hb]⟩

/-- Every tree has a code table (42_table.md R164). -/
theorem codeTable_some (ht : TreeOk S) (hl : LeavesOk cap S) : ∃ T, codeTable S.node S.root.toNat = some T := by
  have hn := hl.nsym_le
  have hr := ht.root_isNode hl
  obtain ⟨ps, hps⟩ := leafPaths_some ht hl (fuel := 255) hr (by omega) []
  exact ⟨assignCodes ps, by simp [codeTable, hps]⟩

/-! DECODE. -/

/-- The steps a walk at this cursor still needs at most: two for each unread bit, and one to leave a leaf
(44_decode.md R203). -/
def stepsLeft (S : Session) (c : Cursor) : Nat := 2 * c.rest.length + (S.slot c.ptr).leaf.toNat

/-- A walk that starts on a node ends on one, within the steps left: a leaf step is followed by a step from the root,
which is no leaf (44_decode.md R203). -/
theorem walk_ok (ht : TreeOk S) (hl : LeavesOk cap S) {fuel : Nat} {c : Cursor} (hc : IsNode S c.ptr)
    (hf : c.rest = [] ∨ stepsLeft S c ≤ fuel) :
    ∃ c', walk S.node S.root.toNat fuel c = .ok c' ∧ IsNode S c'.ptr := by
  induction fuel generalizing c with
  | zero =>
    have hnil : c.rest = [] := hf.elim id fun h => List.length_eq_zero_iff.mp (by unfold stepsLeft at h; omega)
    exact ⟨c, walk_nil _ _ _ _ hnil, hc⟩
  | succ fuel ih =>
    cases hr : c.rest with
    | nil => exact ⟨c, walk_nil _ _ _ _ hr, hc⟩
    | cons b rest =>
      have hslot := hl.slot_of_isNode hc
      have hsteps : 2 * rest.length + 2 + (S.slot c.ptr).leaf.toNat ≤ fuel + 1 := by
        simpa [stepsLeft, hr, Nat.mul_add] using hf
      cases hleaf : (S.slot c.ptr).leaf with
      | true =>
        rw [walk_leaf hr hslot hleaf]
        refine ih (ht.root_isNode hl) (.inr ?_)
        simp [stepsLeft, ht.root_inner hl, hr, hleaf] at hsteps ⊢
        omega
      | false =>
        rw [walk_inner hr hslot hleaf]
        have hlt := ht.child_lt hl hc hleaf b
        refine ih (hlt.trans hc) (.inr ?_)
        have hbit := Bool.toNat_le (S.slot (if b then (S.slot c.ptr).right else (S.slot c.ptr).left).toNat).leaf
        simp only [stepsLeft]
        omega

/-- DECODE of every payload ends (44_decode.md R203). -/
theorem decodePayload_ok (ht : TreeOk S) (hl : LeavesOk cap S) (P : Bits) :
    ∃ r, decodePayload S.node S.root.toNat P = .ok r := by
  obtain ⟨c, hw, hc⟩ := walk_ok ht hl (fuel := 2 * P.length) (c := { ptr := S.root.toNat, rest := P, out := [] })
    (ht.root_isNode hl) (.inr (by simp [stepsLeft, ht.root_inner hl]))
  exact ⟨(flushed (S.slot c.ptr) c, residualOf S.root.toNat (S.slot c.ptr) c), by
    simp [decodePayload, hw, hl.slot_of_isNode hc]⟩

/-! No command stops. -/

/-- On a session in order, in a phase in which the command may run, no body is stuck (41_tree.md R146,
42_table.md R164, 44_decode.md R203). -/
theorem bodyOf_ne_stuck {i : Instr} {s : State} (h : SessionOk cap s.session)
    (ha : allowedIn i s.session.phase = true) (f : Fault) : bodyOf i s ≠ .stuck f := by
  cases i <;> simp only [bodyOf]
  case nop => nofun
  case clear => nofun
  case analyze =>
    unfold analyzeBody
    split
    · nofun
    · split <;> nofun
  case buildTree =>
    have hl := h.leavesOk (by simpa [allowedIn] using ha)
    obtain ⟨S', hS⟩ := buildTree_some hl.nsym_ge hl.nsym_le
    simp [buildTreeBody, hS]
  case genTable =>
    have hp : s.session.phase = .built ∨ s.session.phase = .tabled := by simpa [allowedIn] using ha
    obtain ⟨T, hT⟩ := codeTable_some (h.treeOk hp) (h.leavesOk_of_tree hp)
    simp [genTableBody, hT]
  case encode =>
    unfold encodeBody
    split
    · nofun
    · split <;> nofun
  case pack => unfold packBody; split <;> nofun
  case unpack => unfold unpackBody; split <;> nofun
  case decode =>
    have hp : s.session.phase = .built ∨ s.session.phase = .tabled := by simpa [allowedIn] using ha
    unfold decodeBody
    split
    · nofun
    · rename_i P hd _
      obtain ⟨r, hr⟩ := decodePayload_ok (h.treeOk hp) (h.leavesOk_of_tree hp) P
      simp [hr]

/-- On a session in order every command answers a next state (00_scope.md R14). -/
theorem exec_next {s : State} (i : Instr) (h : SessionOk cap s.session) : ∃ t, exec i s = .next t := by
  cases he : exec i s with
  | next t => exact ⟨t, rfl⟩
  | fault f =>
    rw [exec_eq] at he
    obtain ⟨-, ha, hb⟩ := runCommand_fault he
    exact absurd hb (bodyOf_ne_stuck h ha f)
  | refused r =>
    rw [exec_eq] at he
    exact absurd he runCommand_not_refused

/-- On a session in order every turn of the core answers a next state. -/
theorem coreTurn_next {s : State} (h : SessionOk cap s.session) : ∃ t, coreTurn s = .next t := by
  cases hb : s.busy with
  | false => exact ⟨s, coreTurn_idle hb⟩
  | true =>
    cases hd : decode s.pending with
    | error e => exact ⟨s.illegal, coreTurn_of_illegal hb hd⟩
    | ok i => rw [coreTurn_of_decode hb hd]; exact exec_next i h

/-- On a session in order every step answers a next state: only the core's turn could stop. -/
theorem step_next {s : State} (h : SessionOk cap s.session) : ∃ t, step s = .next t := by
  cases hs : s.schedule with
  | nil => rw [step_nil hs]; exact coreTurn_next h
  | cons e rest =>
    rw [step_cons hs]
    cases e with
    | core => exact coreTurn_next (s := { s with schedule := rest }) h
    | busRead addr => exact ⟨_, rfl⟩
    | busWrite addr v => exact ⟨_, rfl⟩
    | reset => exact ⟨_, rfl⟩

/-- Settles O59: the faults are those of BUILD_TREE, GEN_TABLE and DECODE on a session that is not in order, and the
invariant says that it is. -/
theorem stepsNeverStop : Obligations.StepsNeverStop := fun _ h => step_next h.session

end Sys2Proof.Machine
end

section
/-! The session ANALYZE commits is in order: the records are sorted, cover the source and weigh its length
(40_analyze.md R120 to R130). -/

namespace Sys2Proof.Machine

/-! The sort. -/

/-- The order of the sorted frequency sequence on records: by weight, ties by symbol (40_analyze.md R122). -/
abbrev recordBefore (a b : FreqRecord) : Prop :=
  a.weight.toNat < b.weight.toNat ∨ a.weight = b.weight ∧ a.sym.toNat < b.sym.toNat

/-- A record that goes before another is not heavier. -/
theorem recordBefore.weight_le {a b : FreqRecord} (h : recordBefore a b) : a.weight.toNat ≤ b.weight.toNat := by
  obtain h | ⟨h, -⟩ := h
  · exact h.le
  · rw [h]

/-- A record not heavier and of lower symbol goes before. -/
theorem recordBefore_of_le {a b : FreqRecord} (hw : a.weight.toNat ≤ b.weight.toNat)
    (hs : a.sym.toNat < b.sym.toNat) : recordBefore a b := by
  obtain h | h := hw.lt_or_eq
  · exact .inl h
  · exact .inr ⟨BitVec.eq_of_toNat_eq h, hs⟩

/-- Inserting a record of lower symbol than all of a sorted list keeps it sorted, ties by symbol
(40_analyze.md R122). -/
theorem pairwise_orderedInsert {a : FreqRecord} {l : List FreqRecord} (hl : l.Pairwise recordBefore)
    (ha : ∀ b ∈ l, a.sym.toNat < b.sym.toNat) :
    (l.orderedInsert (fun a b => lighter a b = true) a).Pairwise recordBefore := by
  induction l with
  | nil => simp
  | cons b l ih =>
    rw [List.orderedInsert_cons]
    obtain ⟨hb, hl'⟩ := List.pairwise_cons.mp hl
    split
    · rename_i hab
      have hw : a.weight.toNat ≤ b.weight.toNat := by simpa [lighter] using hab
      refine List.pairwise_cons.mpr ⟨fun x hx => recordBefore_of_le ?_ (ha x hx), hl⟩
      obtain rfl | hx := List.mem_cons.mp hx
      · exact hw
      · exact hw.trans (hb x hx).weight_le
    · rename_i hab
      have hw : b.weight.toNat < a.weight.toNat := by simpa [lighter] using hab
      refine List.pairwise_cons.mpr ⟨fun x hx => ?_, ih hl' fun x hx => ha x (List.mem_cons_of_mem _ hx)⟩
      obtain rfl | hx := (List.mem_orderedInsert _).mp hx
      · exact .inl hw
      · exact hb x hx

/-- The stable sort by weight of records in symbol order sorts by weight with ties by symbol (40_analyze.md R122). -/
theorem pairwise_sortRecords {l : List FreqRecord} (h : l.Pairwise fun a b => a.sym.toNat < b.sym.toNat) :
    (sortRecords l).Pairwise recordBefore := by
  induction l with
  | nil => simp [sortRecords]
  | cons a l ih =>
    obtain ⟨ha, hl⟩ := List.pairwise_cons.mp h
    exact pairwise_orderedInsert (ih hl) fun b hb => ha b ((List.mem_insertionSort _).mp hb)

/-- The sort only reorders. -/
theorem sortRecords_perm (l : List FreqRecord) : (sortRecords l).Perm l := List.perm_insertionSort _ l

/-! The records of a source. -/

/-- A source ANALYZE accepts: not empty, every byte a symbol, and short enough for 32-bit counts
(40_analyze.md R123, R124, R128). -/
structure SourceOk (src : List Byte) : Prop where
  nonempty : src ≠ []
  symbols : ∀ b ∈ src, b.toNat < 0x80
  length_lt : src.length < 2 ^ 32

/-- No symbol occurs more often than the source is long. -/
theorem occurrences_le (src : List Byte) (s : Nat) : occurrences src s ≤ src.length := List.count_le_length

/-- Occurrences by the values of the bytes. -/
theorem occurrences_eq_count_toNat (src : List Byte) {s : Nat} (hs : s < 128) :
    occurrences src s = (src.map BitVec.toNat).count s := by
  have hv : (BitVec.ofNat 8 s).toNat = s := by rw [BitVec.toNat_ofNat, Nat.mod_eq_of_lt (by omega)]
  conv_rhs => rw [← hv]
  exact (List.count_map_of_injective _ _ (fun _ _ => BitVec.eq_of_toNat_eq) _).symm

/-- Every byte of a source of symbols is counted once (40_analyze.md R121, R130). -/
theorem sum_occurrences {src : List Byte} (h : ∀ b ∈ src, b.toNat < 0x80) :
    ((List.range 128).map (occurrences src)).sum = src.length := by
  have hmem : ∀ a ∈ (src.map BitVec.toNat : Multiset Nat), a ∈ Finset.range 128 := by simpa using h
  have hcard := Multiset.sum_count_eq_card hmem
  rw [Multiset.coe_card, List.length_map] at hcard
  rw [← hcard]
  refine congrArg List.sum (List.map_congr_left fun s hs => ?_)
  rw [Multiset.coe_count, occurrences_eq_count_toNat src (List.mem_range.mp hs)]

/-- The record of the symbol with value `s` (40_analyze.md R120). -/
def recordOf (src : List Byte) (s : Nat) : FreqRecord where
  sym    := BitVec.ofNat 7 s
  weight := BitVec.ofNat 32 (occurrences src s)
  synth  := false

/-- The records before the sort (40_analyze.md R122). -/
theorem symbolRecords_eq (src : List Byte) : symbolRecords src =
    ((List.range 128).filter fun s => decide (0 < occurrences src s)).map (recordOf src) := rfl

/-- The records before the sort are those of the symbols that occur. -/
theorem mem_symbolRecords {src : List Byte} {r : FreqRecord} :
    r ∈ symbolRecords src ↔ ∃ s < 128, 0 < occurrences src s ∧ recordOf src s = r := by
  simp [symbolRecords_eq, and_assoc]

/-- The value of a record's symbol. -/
theorem recordOf_sym_toNat (src : List Byte) {s : Nat} (hs : s < 128) : (recordOf src s).sym.toNat = s := by
  simp [recordOf]; omega

/-- The value of a record's weight (40_analyze.md R128). -/
theorem recordOf_weight_toNat {src : List Byte} (h : src.length < 2 ^ 32) (s : Nat) :
    (recordOf src s).weight.toNat = occurrences src s := by
  have := occurrences_le src s
  simp [recordOf]; omega

/-- The records before the sort are in symbol order (40_analyze.md R122). -/
theorem pairwise_symbolRecords (src : List Byte) :
    (symbolRecords src).Pairwise fun a b => a.sym.toNat < b.sym.toNat := by
  rw [symbolRecords_eq, List.pairwise_map]
  refine (List.pairwise_lt_range.filter _).imp_of_mem fun ha hb hab => ?_
  rw [recordOf_sym_toNat src (List.mem_range.mp (List.mem_of_mem_filter ha)),
    recordOf_sym_toNat src (List.mem_range.mp (List.mem_of_mem_filter hb))]
  exact hab

/-- There are at most 128 records (40_analyze.md R122). -/
theorem symbolRecords_length_le (src : List Byte) : (symbolRecords src).length ≤ 128 := by
  rw [symbolRecords_eq, List.length_map]
  exact (List.length_filter_le _ _).trans_eq List.length_range

/-- Symbols that do not occur add nothing to the sum of the counts. -/
theorem sum_filter_occurring (src : List Byte) (l : List Nat) :
    ((l.filter fun s => decide (0 < occurrences src s)).map (occurrences src)).sum =
      (l.map (occurrences src)).sum := by
  induction l with
  | nil => rfl
  | cons s l ih =>
    by_cases hs : 0 < occurrences src s
    · simp [hs, ih]
    · rw [List.filter_cons_of_neg (by simpa using hs), ih]
      simp [Nat.eq_zero_of_not_pos hs]

/-- The records weigh the length of the source (40_analyze.md R130). -/
theorem sum_symbolRecords {src : List Byte} (h : SourceOk src) :
    ((symbolRecords src).map fun r => r.weight.toNat).sum = src.length := by
  rw [symbolRecords_eq, List.map_map, ← sum_occurrences h.symbols, ← sum_filter_occurring]
  exact congrArg List.sum (List.map_congr_left fun s _ => recordOf_weight_toNat h.length_lt s)

/-- A source that is not empty has a record. -/
theorem symbolRecords_ne_nil {src : List Byte} (h : SourceOk src) : symbolRecords src ≠ [] := by
  intro hnil
  have hsum := sum_symbolRecords h
  rw [hnil] at hsum
  exact h.nonempty (List.length_eq_zero_iff.mp hsum.symm)

/-! The sorted frequency sequence. -/

/-- What the sorted frequency sequence of a source is (40_analyze.md R120, R122, R126, R130). -/
structure RecordsOk (src : List Byte) (recs : List FreqRecord) : Prop where
  length_ge : 2 ≤ recs.length
  length_le : recs.length ≤ 128
  sorted : recs.Pairwise recordBefore
  weight : ∀ r ∈ recs, r.weight = BitVec.ofNat 32 (occurrences src r.sym.toNat)
  synth_iff : ∀ r ∈ recs, (r.synth = true ↔ r.weight = 0)
  synth_first : ∀ r ∈ recs, r.synth = true → ∃ r', recs = [r, r'] ∧ r'.synth = false ∧ r.sym = r'.sym + 1
  covered : ∀ c < 128, 0 < occurrences src c → ∃ r ∈ recs, r.sym = BitVec.ofNat 7 c
  sum : (recs.map fun r => r.weight.toNat).sum = src.length

variable {src : List Byte}

/-- The sorted records are those of the symbols that occur. -/
theorem mem_sortRecords {r : FreqRecord} :
    r ∈ sortRecords (symbolRecords src) ↔ ∃ s < 128, 0 < occurrences src s ∧ recordOf src s = r :=
  (sortRecords_perm _).mem_iff.trans mem_symbolRecords

/-- A record of a symbol that occurs: its weight is the symbol's count, not 0, and it is not synthetic. -/
theorem record_of_mem_sortRecords (h : SourceOk src) {r : FreqRecord} (hr : r ∈ sortRecords (symbolRecords src)) :
    r.weight = BitVec.ofNat 32 (occurrences src r.sym.toNat) ∧ 0 < r.weight.toNat ∧ r.synth = false := by
  obtain ⟨s, hs, hocc, rfl⟩ := mem_sortRecords.mp hr
  refine ⟨by rw [recordOf_sym_toNat src hs]; rfl, ?_, rfl⟩
  rwa [recordOf_weight_toNat h.length_lt]

/-- The sorted records weigh the length of the source (40_analyze.md R130). -/
theorem sum_sortRecords (h : SourceOk src) :
    ((sortRecords (symbolRecords src)).map fun r => r.weight.toNat).sum = src.length :=
  (((sortRecords_perm _).map _).sum_eq).trans (sum_symbolRecords h)

/-- A symbol that occurs has a sorted record. -/
theorem covered_sortRecords {c : Nat} (hc : c < 128) (hocc : 0 < occurrences src c) :
    ∃ r ∈ sortRecords (symbolRecords src), r.sym = BitVec.ofNat 7 c :=
  ⟨recordOf src c, mem_sortRecords.mpr ⟨c, hc, hocc, rfl⟩, rfl⟩

/-- Two or more records need no synthetic one (40_analyze.md R122). -/
theorem recordsOk_of_two (h : SourceOk src) (h2 : 2 ≤ (sortRecords (symbolRecords src)).length) :
    RecordsOk src (sortRecords (symbolRecords src)) where
  length_ge := h2
  length_le := (sortRecords_perm _).length_eq.trans_le (symbolRecords_length_le src)
  sorted := pairwise_sortRecords (pairwise_symbolRecords src)
  weight := fun r hr => (record_of_mem_sortRecords h hr).1
  synth_iff := fun r hr => by
    obtain ⟨-, hpos, hsynth⟩ := record_of_mem_sortRecords h hr
    exact iff_of_false (by simp [hsynth]) fun h0 => by simp [h0] at hpos
  synth_first := fun r hr hs => by simp [(record_of_mem_sortRecords h hr).2.2] at hs
  covered := fun c hc hocc => covered_sortRecords hc hocc
  sum := sum_sortRecords h

/-- A symbol other than the one a source consists of does not occur in it. -/
theorem occurrences_of_single {r : FreqRecord} (h1 : sortRecords (symbolRecords src) = [r]) {x : Symbol}
    (hx : x ≠ r.sym) : occurrences src x.toNat = 0 := by
  by_contra hc
  obtain ⟨r', hr', hsym⟩ := covered_sortRecords x.isLt (Nat.pos_of_ne_zero hc)
  rw [h1, List.mem_singleton] at hr'
  subst hr'
  exact hx (by rw [hsym]; simp)

/-- The synthetic record is the first of two (40_analyze.md R126). -/
theorem RecordsOk.synth_index {recs : List FreqRecord} (h : RecordsOk src recs) {i : Nat} (hi : i < recs.length)
    (hs : recs[i].synth = true) : i = 0 ∧ ∃ h2 : recs.length = 2, recs[0].sym = recs[1].sym + 1 := by
  obtain ⟨r', hrecs, hr', hsym⟩ := h.synth_first _ (List.getElem_mem hi) hs
  have h2 : recs.length = 2 := by rw [hrecs]; rfl
  have h0 : recs[0] = recs[i] := by rw [List.getElem_of_eq hrecs]; rfl
  have h1 : recs[1] = r' := by rw [List.getElem_of_eq hrecs]; rfl
  refine ⟨?_, h2, by rw [h0, h1, hsym]⟩
  by_contra hne
  obtain rfl : i = 1 := by omega
  simp [h1, hr'] at hs

/-- One record gets the synthetic one in front (40_analyze.md R126). -/
theorem recordsOk_of_single (h : SourceOk src) {r : FreqRecord} (h1 : sortRecords (symbolRecords src) = [r]) :
    RecordsOk src [{ sym := r.sym + 1, weight := 0, synth := true }, r] := by
  obtain ⟨hw, hpos, hsynth⟩ := record_of_mem_sortRecords h (r := r) (by simp [h1])
  have hne : r.weight ≠ 0 := fun h0 => by simp [h0] at hpos
  have hother : occurrences src (r.sym + 1).toNat = 0 := occurrences_of_single h1 (by bv_omega)
  have hsum := sum_sortRecords h
  rw [h1] at hsum
  constructor
  case length_ge => simp
  case length_le => simp
  case sorted => exact List.pairwise_pair.mpr (.inl hpos)
  case weight => exact List.forall_mem_cons.mpr ⟨by rw [hother]; rfl, List.forall_mem_singleton.mpr hw⟩
  case synth_iff =>
    exact List.forall_mem_cons.mpr ⟨by simp, List.forall_mem_singleton.mpr (iff_of_false (by simp [hsynth]) hne)⟩
  case synth_first => simp [hsynth]
  case covered =>
    intro c hc hocc
    obtain ⟨r', hr', hsym⟩ := covered_sortRecords hc hocc
    rw [h1] at hr'
    exact ⟨r', List.mem_cons_of_mem _ hr', hsym⟩
  case sum => simpa using hsum

/-- The sorted frequency sequence of every source ANALYZE accepts (40_analyze.md R120). -/
theorem recordsOk_sortedRecords (h : SourceOk src) : RecordsOk src (sortedRecords src) := by
  have hpos := List.length_pos_iff.mpr (symbolRecords_ne_nil h)
  rw [← (sortRecords_perm _).length_eq] at hpos
  have two := recordsOk_of_two h
  have single := fun r => recordsOk_of_single (r := r) h
  unfold sortedRecords
  generalize sortRecords (symbolRecords src) = l at *
  match l with
  | [] => simp at hpos
  | [r] => exact single r rfl
  | a :: b :: l => exact two (by simp)

/-! The session ANALYZE commits. -/

/-- A slot of the session ANALYZE commits (40_analyze.md R120). -/
theorem slot_analyzedSession (h : SourceOk src) (i : Nat) : (analyzedSession src).slot i =
    (((sortedRecords src)[i]?).map leafSlot).getD NodeSlot.empty := by
  have hlen := (recordsOk_sortedRecords h).length_le
  by_cases hi : i < 255
  · simp [Session.slot, analyzedSession, slotAt, leafNodes, hi]
  · rw [Session.slot, slotAt_of_ge _ (by omega), List.getElem?_eq_none (by omega)]
    rfl

/-- The leaf count ANALYZE commits fits its 8 bits (10_state.md R25). -/
theorem nsym_analyzedSession (h : SourceOk src) :
    (analyzedSession src).nsym.toNat = (sortedRecords src).length := by
  have hlen := (recordsOk_sortedRecords h).length_le
  rw [analyzedSession, BitVec.toNat_ofNat]
  omega

/-- A leaf slot of the session ANALYZE commits. -/
theorem slot_analyzedSession_leaf (h : SourceOk src) {i : Nat} (hi : i < (sortedRecords src).length) :
    (analyzedSession src).slot i = leafSlot (sortedRecords src)[i] := by
  rw [slot_analyzedSession h, List.getElem?_eq_getElem hi]
  rfl

/-- The total ANALYZE commits fits its 32 bits (40_analyze.md R125, R128). -/
theorem total_analyzedSession (h : SourceOk src) : (analyzedSession src).total.toNat = src.length := by
  rw [analyzedSession, BitVec.toNat_ofNat, Nat.mod_eq_of_lt h.length_lt]

/-- The counts ANALYZE commits (40_analyze.md R121). -/
theorem countOf_analyzedSession (src : List Byte) (c : Symbol) :
    (analyzedSession src).countOf c = BitVec.ofNat 32 (occurrences src c.toNat) := by
  have hc : c.toNat < 128 := c.isLt
  simp [Session.countOf, analyzedSession, countVector, hc]

/-- The leaves of every analysis are in order (40_analyze.md R122, R126, R130). -/
theorem leavesOk_analyzedSession (h : SourceOk src) {cap : Nat} (hcap : src.length ≤ cap) :
    LeavesOk cap (analyzedSession src) := by
  have hr := recordsOk_sortedRecords h
  have hslot := fun i hi => slot_analyzedSession_leaf h (i := i) hi
  have hmem := fun i hi => List.getElem_mem (l := sortedRecords src) (n := i) hi
  constructor <;> simp only [nsym_analyzedSession h, total_analyzedSession h]
  case nsym_ge => exact hr.length_ge
  case nsym_le => exact hr.length_le
  case total_pos => exact List.length_pos_iff.mpr h.nonempty
  case total_le => exact hcap
  case leaf => intro i hi; rw [hslot i hi]; exact ⟨rfl, rfl, rfl, rfl⟩
  case ordered =>
    intro j hj i hi
    rw [hslot i (hi.trans hj), hslot j hj]
    exact List.pairwise_iff_getElem.mp hr.sorted i j (hi.trans hj) hj hi
  case weight_count =>
    intro i hi
    rw [hslot i hi, countOf_analyzedSession]
    exact hr.weight _ (hmem i hi)
  case synth_iff => intro i hi; rw [hslot i hi]; exact hr.synth_iff _ (hmem i hi)
  case synth_first =>
    intro i hi hs
    rw [hslot i hi] at hs
    obtain ⟨hi0, h2, hsym⟩ := hr.synth_index hi hs
    exact ⟨h2, hi0, by rw [hslot 0 (by omega), hslot 1 (by omega)]; exact hsym⟩
  case covered =>
    intro c hc
    rw [countOf_analyzedSession, BitVec.toNat_ofNat, Nat.mod_eq_of_lt hc]
    obtain h0 | hpos := Nat.eq_zero_or_pos (occurrences src c)
    · exact .inl (by rw [h0]; rfl)
    · obtain ⟨r, hrm, hsym⟩ := hr.covered c hc hpos
      obtain ⟨i, hi, rfl⟩ := List.getElem_of_mem hrm
      exact .inr ⟨i, List.mem_range.mpr hi, by rw [hslot i hi]; exact hsym⟩
  case leaf_sum =>
    rw [← hr.sum]
    refine congrArg List.sum (List.ext_getElem (by simp) fun i hi hi' => ?_)
    rw [List.length_map] at hi'
    rw [List.getElem_map, List.getElem_map, List.getElem_range, hslot i hi']
    rfl

/-- No slot past the leaves of an analysis holds a node (10_state.md R27). -/
theorem unusedFrom_analyzedSession (h : SourceOk src) :
    unusedFrom (analyzedSession src) (analyzedSession src).nsym.toNat := by
  intro j _ hj
  rw [nsym_analyzedSession h] at hj
  rw [slot_analyzedSession h, List.getElem?_eq_none hj]
  rfl

/-- ANALYZE leaves a session that is in order in phase ANALYZED (40_analyze.md R120). -/
theorem sessionOk_analyzedSession (h : SourceOk src) {cap : Nat} (hcap : src.length ≤ cap) :
    SessionOk cap (analyzedSession src) :=
  ⟨leavesOk_analyzedSession h hcap, rfl, unusedFrom_analyzedSession h, rfl⟩

/-- The source of an ANALYZE that succeeds (40_analyze.md R123, R124). -/
theorem analyzeBody_done {s s' : State} {out : List Byte} (h : analyzeBody s = .done s' out)
    (hlen : s.inBuf.length < 2 ^ 32) :
    SourceOk s.inBuf ∧ s' = s.withSession (analyzedSession s.inBuf) ∧ out = [] := by
  unfold analyzeBody at h
  split at h
  · cases h
  · rename_i hne
    split at h
    · cases h
    · rename_i hnone
      cases h
      refine ⟨⟨hne, fun b hb => ?_, hlen⟩, rfl, rfl⟩
      have hb' := List.findIdx?_eq_none_iff.mp hnone b hb
      simpa [outOfRange] using hb'

end Sys2Proof.Machine
end

section
/-! Every step keeps the invariant, and a run past the schedule ends with no command pending (00_scope.md R14,
70_reset_and_hazards.md R275). -/

namespace Sys2Proof.Machine

/-! Lengths of the bit packer and unpacker. -/

/-- The bytes of a packed payload hold it and its padding (30_encoding.md R102). -/
theorem packBytes_length (P : Bits) : 8 * (packBytes P).length = P.length + padOf P.length := by
  have h := unpackStream_groupBytes (packStream P) (by rw [packStream_length]; exact padOf_aligned _)
  rw [← unpackStream_length, packBytes, h, packStream_length]

/-- The header and the payload an operand unpacks to are all its bits (43_pack.md R185). -/
theorem unpackBytes_length {B : List Byte} {P : Bits} {h : Nat} (hu : unpackBytes B = some (P, h)) :
    1 ≤ h ∧ h ≤ 8 ∧ P.length + h = 8 * B.length := by
  unfold unpackBytes at hu
  split at hu
  · rename_i k hk
    cases hu
    obtain ⟨hlt, -⟩ := List.findIdx?_eq_some_iff_findIdx_eq.mp hk
    simp only [List.length_take, unpackStream_length, List.length_drop] at hlt ⊢
    omega
  · cases hu

/-! What the invariant says of the session and the result registers. -/

/-- The part of the invariant that a command's body can touch. -/
structure ResultsOk (s : State) : Prop where
  session : SessionOk s.params.inCap s.session
  payload_lt : s.payloadBits.toNat < 2 ^ 31
  padding_le : s.padding.toNat ≤ 8
  aligned : (s.payloadBits.toNat + s.padding.toNat) % 8 = 0

variable {s s' t : State}

theorem Inv.resultsOk (h : Inv s) : ResultsOk s := ⟨h.session, h.payload_lt, h.padding_le, h.aligned⟩

/-- The capacities are at most 2^28 (00_scope.md R7). -/
theorem Inv.caps_le (h : Inv s) : s.params.inCap ≤ 2 ^ 28 ∧ s.params.outCap ≤ 2 ^ 28 := by
  have hp := h.params
  simp only [Params.wf, Params.inCapOk, Params.outCapOk, Config.maxCap, Bool.and_eq_true, decide_eq_true_eq] at hp
  obtain ⟨⟨⟨-, hin⟩, -, hout⟩, -⟩ := hp
  exact ⟨of_decide_eq_true hin, of_decide_eq_true hout⟩

/-- A body that changes the session alone. -/
theorem ResultsOk.withSession (h : ResultsOk s) {S : Session} (hS : SessionOk s.params.inCap S) :
    ResultsOk (s.withSession S) := { h with session := hS }

/-- A body that writes the two lengths (10_state.md R56, 43_pack.md R178). -/
theorem ResultsOk.withLengths (h : ResultsOk s) {len pad : Nat} (hlen : len < 2 ^ 31) (hpad : pad ≤ 8)
    (ha : (len + pad) % 8 = 0) : ResultsOk (s.withLengths len pad) := by
  have hl : (BitVec.ofNat 32 len).toNat = len := by rw [BitVec.toNat_ofNat]; omega
  have hp : (BitVec.ofNat 32 pad).toNat = pad := by rw [BitVec.toNat_ofNat]; omega
  refine ⟨h.session, ?_, ?_, ?_⟩
  · rw [State.withLengths_payloadBits, hl]; exact hlen
  · rw [State.withLengths_padding, hp]; exact hpad
  · rw [State.withLengths_payloadBits, State.withLengths_padding, hl, hp]; exact ha

/-- The lengths of a packed payload whose bytes fit in OutBuf (43_pack.md R178). -/
theorem ResultsOk.packed (h : ResultsOk s) {P : Bits} (hfit : (packBytes P).length ≤ 2 ^ 28) :
    ResultsOk (s.withLengths P.length (padOf P.length)) := by
  have hlen := packBytes_length P
  obtain ⟨hpos, hle⟩ := padOf_range P.length
  exact h.withLengths (by omega) hle (padOf_aligned _)

/-- The lengths of an operand unpacked (43_pack.md R178, R184). -/
theorem ResultsOk.unpacked (h : ResultsOk s) {B : List Byte} {P : Bits} {k : Nat} (hB : B.length ≤ 2 ^ 28)
    (hu : unpackBytes B = some (P, k)) : ResultsOk (s.withLengths P.length k) := by
  obtain ⟨hpos, hle, hlen⟩ := unpackBytes_length hu
  exact h.withLengths (by omega) hle (by omega)

/-! Commands. -/

/-- A body that succeeds keeps the session and the result registers in order, where its output fits. -/
theorem bodyOf_done_resultsOk {i : Instr} {out : List Byte} (h : Inv s) (ha : allowedIn i s.session.phase = true)
    (hb : bodyOf i s = .done s' out) (hfit : s.outBuf.length + out.length ≤ s.params.outCap) : ResultsOk s' := by
  obtain ⟨hin, hout⟩ := h.caps_le
  have hr := h.resultsOk
  have hbuf := h.inBuf_le
  cases i <;> simp only [bodyOf] at hb
  case nop => cases hb; exact hr
  case clear => cases hb; exact ⟨rfl, Nat.two_pow_pos 31, Nat.zero_le 8, rfl⟩
  case analyze =>
    obtain ⟨hsrc, rfl, -⟩ := analyzeBody_done hb (by omega)
    exact hr.withSession (sessionOk_analyzedSession hsrc hbuf)
  case buildTree =>
    unfold buildTreeBody at hb
    split at hb
    · rename_i S hS
      cases hb
      exact hr.withSession (buildTree_sessionOk (h.session.leavesOk (by simpa [allowedIn] using ha)) hS)
    · cases hb
  case genTable =>
    have hp : s.session.phase = .built ∨ s.session.phase = .tabled := by simpa [allowedIn] using ha
    unfold genTableBody at hb
    split at hb
    · rename_i T hT
      cases hb
      exact hr.withSession ⟨(h.session.leavesOk_of_tree hp).retabled _ _, (h.session.treeOk hp).retabled _ _, hT⟩
    · cases hb
  case encode =>
    unfold encodeBody packResult at hb
    split at hb
    · cases hb
    · split at hb
      · cases hb
      · cases hb
        exact hr.packed (by omega)
  case pack =>
    unfold packBody packResult at hb
    split at hb
    · cases hb
    · cases hb
      exact hr.packed (by omega)
  case unpack =>
    unfold unpackBody at hb
    split at hb
    · cases hb
    · rename_i P k hu
      cases hb
      exact hr.unpacked (by omega) hu
  case decode =>
    unfold decodeBody at hb
    split at hb
    · cases hb
    · rename_i P k hu
      split at hb
      · cases hb
      · cases hb
        exact { hr.unpacked (hbuf.trans hin) hu with }

/-- The errors of `payloadOf` are SYMBOL_RANGE and UNASSIGNED_SYMBOL (43_pack.md R176). -/
theorem payloadOf_error {S : Session} {i k : Nat} {src : List Byte} {code : ErrorCode}
    (h : payloadOf S i src = .error (code, k)) : code = .symbolRange ∨ code = .unassignedSymbol := by
  induction src generalizing i with
  | nil => cases h
  | cons b src ih =>
    rw [payloadOf] at h
    split at h
    · cases h; exact .inl rfl
    · split at h
      · cases h; exact .inr rfl
      · split at h
        · cases h
        · rename_i e he
          cases h
          exact ih he

/-- A body that raises names an error (60_exceptions.md R230). -/
theorem bodyOf_raise_ne_none {i : Instr} {code : ErrorCode} {info : Word} (h : bodyOf i s = .raise code info) :
    code ≠ .none := by
  cases i <;> simp only [bodyOf] at h
  case nop => cases h
  case clear => cases h
  case analyze =>
    unfold analyzeBody at h
    split at h
    · cases h; decide
    · split at h <;> cases h; decide
  case buildTree => unfold buildTreeBody at h; split at h <;> cases h
  case genTable => unfold genTableBody at h; split at h <;> cases h
  case encode =>
    unfold encodeBody packResult at h
    split at h
    · cases h; decide
    · split at h
      · rename_i he
        cases h
        obtain rfl | rfl := payloadOf_error he <;> decide
      · cases h
  case pack => unfold packBody packResult at h; split at h <;> cases h; decide
  case unpack => unfold unpackBody at h; split at h <;> cases h; decide
  case decode =>
    unfold decodeBody at h
    split at h
    · cases h; decide
    · split at h <;> cases h

/-- A completion with an error keeps the invariant (60_exceptions.md R235). -/
theorem Inv.complete (h : Inv s) {code : ErrorCode} {info : Word} (hc : code = .none → info = 0) :
    Inv (s.complete code info) :=
  { h with busy_done := nofun, no_info := hc }

/-- Consuming the operand keeps the invariant (45_session.md R221). -/
theorem Inv.consumeFor (h : Inv s) (i : Instr) : Inv (s.consumeFor i) := by
  cases hc : consuming i with
  | false => rw [s.consumeFor_of_not hc]; exact h
  | true => rw [s.consumeFor_of_consuming hc]; exact { h with inBuf_le := Nat.zero_le _, overflow := nofun }

/-- A command that fails keeps the invariant (60_exceptions.md R235). -/
theorem Inv.fail (h : Inv s) (i : Instr) {code : ErrorCode} (hc : code ≠ .none) (info : Word) :
    Inv (s.fail i code info) := (h.consumeFor i).complete fun h0 => absurd h0 hc

/-- A word that names no command keeps the invariant (60_exceptions.md R236). -/
theorem Inv.illegal (h : Inv s) : Inv s.illegal := h.complete nofun

/-- A body that succeeds keeps the buffers within their capacities, with the output counted (10_state.md R30, R31). -/
theorem bodyOf_done_buffers_le {i : Instr} {out : List Byte} (h : Inv s) (hb : bodyOf i s = .done s' out)
    (hfit : s.outBuf.length + out.length ≤ s.params.outCap) :
    s'.inBuf.length ≤ s.params.inCap ∧ s'.outBuf.length + out.length ≤ s.params.outCap ∧
      (s'.inOvf = true → s'.inBuf.length = s.params.inCap) := by
  by_cases hi : i = .clear
  · subst hi
    cases hb
    exact ⟨Nat.zero_le _, Nat.zero_le _, nofun⟩
  · obtain ⟨hin, hout, hovf, -⟩ := bodyOf_done_buffers hi hb
    rw [hin, hout, hovf]
    exact ⟨h.inBuf_le, hfit, h.overflow⟩

/-- A commit keeps the invariant (45_session.md R220). -/
theorem commit_inv {i : Instr} {out : List Byte} (h : Inv s) (ha : allowedIn i s.session.phase = true)
    (hb : bodyOf i s = .done s' out) (hfit : s.outBuf.length + out.length ≤ s.params.outCap) :
    Inv (s'.commit i out) := by
  obtain ⟨hp, -⟩ := bodyOf_done_host hb
  obtain ⟨hin, hout, hovf⟩ := bodyOf_done_buffers_le h hb hfit
  obtain ⟨hS, hpay, hpad, hal⟩ := bodyOf_done_resultsOk h ha hb hfit
  have hparams := h.params
  rw [← hp] at hin hout hovf hparams
  rw [State.commit_eq]
  constructor
  case params => exact hparams
  case inBuf_le => cases consuming i <;> simp [hin]
  case outBuf_le => simpa using hout
  case session => exact hS
  case busy_done => nofun
  case overflow =>
    cases consuming i with
    | false => exact hovf
    | true => nofun
  case no_info => exact fun _ => rfl
  case payload_lt => exact hpay
  case padding_le => exact hpad
  case aligned => exact hal

/-- Every command keeps the invariant. -/
theorem exec_inv {i : Instr} (h : Inv s) (he : exec i s = .next t) : Inv t := by
  rw [exec_eq] at he
  obtain ⟨-, -, rfl⟩ | ⟨-, ⟨-, rfl⟩ | ⟨ha, ⟨code, info, hb, rfl⟩ | ⟨s', out, hb, ⟨-, rfl⟩ | ⟨hfit, rfl⟩⟩⟩⟩ :=
    runCommand_cases he
  · exact h.fail i (by decide) 0
  · exact h.fail i (by decide) _
  · exact h.fail i (bodyOf_raise_ne_none hb) info
  · exact h.fail i (by decide) _
  · exact commit_inv h ha hb hfit

/-- A turn of the core keeps the invariant. -/
theorem coreTurn_inv (h : Inv s) (ht : coreTurn s = .next t) : Inv t := by
  obtain ⟨-, rfl⟩ | ⟨-, i, -, he⟩ | ⟨-, -, rfl⟩ := coreTurn_cases ht
  · exact h
  · exact exec_inv h he
  · exact h.illegal

/-! Host transactions and reset. -/

/-- The invariant says nothing of HAZARD. -/
theorem Inv.setHazard (h : Inv s) : Inv s.setHazard := { h with }

/-- A register read keeps the invariant: it may pop OutBuf, set HAZARD or draw a free value (20_memory.md R66, R67). -/
theorem readRegister_inv (h : Inv s) (r : Register) : Inv (readRegister r s).2 := by
  obtain ⟨he, -⟩ | ⟨-, -, he⟩ | ⟨-, -, he⟩ | ⟨-, -, -, he⟩ := readRegister_cases r s <;> rw [he]
  · exact h
  · exact { h with outBuf_le := (List.length_tail.trans_le (Nat.sub_le _ 1)).trans h.outBuf_le }
  · exact h.setHazard
  · exact { h with }

/-- A CMD write keeps the invariant: DONE falls as BUSY rises (10_state.md R45, R47). -/
theorem writeCmd_inv (h : Inv s) (v : Word) : Inv (s.writeCmd v) := by
  obtain ⟨-, he⟩ | ⟨-, he⟩ := State.writeCmd_cases v s <;> rw [he]
  · exact h.setHazard
  · exact { h with busy_done := fun _ => rfl }

/-- A DATA_IN write keeps the invariant: IN_OVF rises only over a full InBuf (10_state.md R50, R52). -/
theorem writeDataIn_inv (h : Inv s) (v : Word) : Inv (s.writeDataIn v) := by
  obtain ⟨-, he⟩ | ⟨-, hlt, he⟩ | ⟨-, hge, he⟩ := State.writeDataIn_cases v s <;> rw [he]
  · exact h.setHazard
  · refine { h with inBuf_le := by simpa using hlt, overflow := fun ho => ?_ }
    exact absurd (h.overflow ho) hlt.ne
  · exact { h with overflow := fun _ => h.inBuf_le.antisymm hge }

/-- A register write keeps the invariant (20_memory.md R66). -/
theorem writeRegister_inv (h : Inv s) (r : Register) (v : Word) : Inv (writeRegister r v s) := by
  obtain he | he | he | he | he | he := writeRegister_cases r v s <;> rw [he]
  · exact h
  · exact { h with }
  · exact { h with busy_done := fun hb => by simp [h.busy_done hb] }
  · exact { h with }
  · exact writeCmd_inv h v
  · exact writeDataIn_inv h v

/-- A read of the window keeps the invariant. -/
theorem busRead_inv (h : Inv s) (off : Nat) : Inv (busRead off s).2 := by
  unfold busRead
  split
  · exact h
  · exact readRegister_inv h _

/-- A write of the window keeps the invariant. -/
theorem busWrite_inv (h : Inv s) (off : Nat) (v : Word) : Inv (busWrite off v s) := by
  unfold busWrite
  split
  · exact h
  · exact writeRegister_inv h _ v

/-- A host read keeps the invariant. -/
theorem hostRead_inv (h : Inv s) (addr : Nat) : Inv (hostRead addr s) := by
  unfold hostRead
  cases offsetOf s.params addr with
  | none => exact { h with }
  | some off => exact { busRead_inv h off with }

/-- A host write keeps the invariant. -/
theorem hostWrite_inv (h : Inv s) (addr : Nat) (v : Word) : Inv (hostWrite addr v s) := by
  unfold hostWrite
  split
  · exact h
  · exact busWrite_inv h _ v

/-- A reset restores the invariant (70_reset_and_hazards.md R261). -/
theorem resetEvent_inv (h : Inv s) : Inv (resetEvent s) where
  params := h.params
  inBuf_le := Nat.zero_le _
  outBuf_le := Nat.zero_le _
  session := rfl
  busy_done := nofun
  overflow := nofun
  no_info := fun _ => rfl
  payload_lt := Nat.two_pow_pos 31
  padding_le := Nat.zero_le 8
  aligned := rfl

/-- The invariant says nothing of the schedule. -/
theorem Inv.withSchedule (h : Inv s) (rest : List Event) : Inv { s with schedule := rest } := { h with }

/-- Every step keeps the invariant. -/
theorem step_inv (h : Inv s) (ht : step s = .next t) : Inv t := by
  obtain ⟨-, hc⟩ | ⟨rest, ⟨-, hc⟩ | ⟨-, rfl⟩ | ⟨addr, -, rfl⟩ | ⟨addr, v, -, rfl⟩⟩ := step_cases ht
  · exact coreTurn_inv h hc
  · exact coreTurn_inv (h.withSchedule rest) hc
  · exact resetEvent_inv (h.withSchedule rest)
  · exact hostRead_inv (h.withSchedule rest) addr
  · exact hostWrite_inv (h.withSchedule rest) addr v

/-! The schedule. -/

/-- Every command completes: BUSY falls and the schedule stays (45_session.md R220). -/
theorem exec_completes {i : Instr} (he : exec i s = .next t) : t.busy = false ∧ t.schedule = s.schedule := by
  have failed : ∀ code info, (s.fail i code info).busy = false ∧ (s.fail i code info).schedule = s.schedule :=
    fun code info => by rw [State.fail_eq]; exact ⟨rfl, rfl⟩
  rw [exec_eq] at he
  obtain ⟨-, -, rfl⟩ | ⟨-, ⟨-, rfl⟩ | ⟨-, ⟨code, info, -, rfl⟩ | ⟨s', out, hb, ⟨-, rfl⟩ | ⟨-, rfl⟩⟩⟩⟩ :=
    runCommand_cases he
  · exact failed _ _
  · exact failed _ _
  · exact failed _ _
  · exact failed _ _
  · obtain ⟨-, -, -, -, -, -, -, hs, -⟩ := bodyOf_done_host hb
    rw [State.commit_eq]
    exact ⟨rfl, hs⟩

/-- After a turn of the core no command is pending, and the schedule is as it was (45_session.md R220). -/
theorem coreTurn_completes (ht : coreTurn s = .next t) : t.busy = false ∧ t.schedule = s.schedule := by
  obtain ⟨hb, rfl⟩ | ⟨-, i, -, he⟩ | ⟨-, -, rfl⟩ := coreTurn_cases ht
  · exact ⟨hb, rfl⟩
  · exact exec_completes he
  · exact ⟨rfl, rfl⟩

/-- A host read schedules nothing. -/
theorem hostRead_schedule (addr : Nat) (s : State) : (hostRead addr s).schedule = s.schedule := by
  have hreg : ∀ r, (readRegister r s).2.schedule = s.schedule := fun r => by
    obtain ⟨he, -⟩ | ⟨-, -, he⟩ | ⟨-, -, he⟩ | ⟨-, -, -, he⟩ := readRegister_cases r s <;> rw [he] <;> rfl
  unfold hostRead busRead
  cases offsetOf s.params addr with
  | none => rfl
  | some off =>
    cases hr : registerAt off with
    | none => simp [hr]
    | some r => simpa [hr] using hreg r

/-- A CMD write schedules nothing. -/
theorem writeCmd_schedule (v : Word) (s : State) : (s.writeCmd v).schedule = s.schedule := by
  obtain ⟨-, he⟩ | ⟨-, he⟩ := State.writeCmd_cases v s <;> rw [he]
  rfl

/-- A DATA_IN write schedules nothing. -/
theorem writeDataIn_schedule (v : Word) (s : State) : (s.writeDataIn v).schedule = s.schedule := by
  obtain ⟨-, he⟩ | ⟨-, -, he⟩ | ⟨-, -, he⟩ := State.writeDataIn_cases v s <;> rw [he]
  rfl

/-- A register write schedules nothing. -/
theorem writeRegister_schedule (r : Register) (v : Word) (s : State) :
    (writeRegister r v s).schedule = s.schedule := by
  obtain he | he | he | he | he | he := writeRegister_cases r v s <;> rw [he]
  · rfl
  · rfl
  · rfl
  · exact writeCmd_schedule v s
  · exact writeDataIn_schedule v s

/-- A host write schedules nothing. -/
theorem hostWrite_schedule (addr : Nat) (v : Word) (s : State) : (hostWrite addr v s).schedule = s.schedule := by
  unfold hostWrite busWrite
  split
  · rfl
  · split
    · rfl
    · exact writeRegister_schedule _ v s

/-- A step takes exactly the oldest event from the schedule. -/
theorem step_schedule {e : Event} {rest : List Event} (hs : s.schedule = e :: rest) (ht : step s = .next t) :
    t.schedule = rest := by
  rw [step_cons hs] at ht
  cases e with
  | core => exact (coreTurn_completes ht).2
  | reset => cases ht; rfl
  | busRead addr => cases ht; exact hostRead_schedule addr _
  | busWrite addr v => cases ht; exact hostWrite_schedule addr v _

/-- A run goes on from the state its first step answers. -/
theorem run_succ {n : Nat} (h : step s = .next t) : core.run (n + 1) s = core.run n t := by
  have hc : core.step s = .next t := h
  simp only [Host.Core.run, hc]

/-- A run over the whole schedule and one turn of the core more ends with no command pending. -/
theorem run_past_schedule {events : List Event} (h : Inv s) (hs : s.schedule = events) :
    ∃ t, core.run (events.length + 1) s = .next t ∧ t.busy = false ∧ t.schedule = [] ∧ Inv t := by
  induction events generalizing s with
  | nil =>
    obtain ⟨t, ht⟩ := stepsNeverStop s h
    have hinv := step_inv h ht
    have hrun := run_succ (n := 0) ht
    rw [step_nil hs] at ht
    obtain ⟨hbusy, hsched⟩ := coreTurn_completes ht
    exact ⟨t, hrun, hbusy, hsched.trans hs, hinv⟩
  | cons e rest ih =>
    obtain ⟨u, hu⟩ := stepsNeverStop s h
    rw [List.length_cons, run_succ hu]
    exact ih (step_inv h hu) (step_schedule hs hu)

/-- Settles O60, by induction on the schedule: each step takes one event and keeps the invariant, and the core's turn
after the last one completes whatever is pending. -/
theorem pendingCommandCompletes : Obligations.PendingCommandCompletes := fun _ h => run_past_schedule h rfl

end Sys2Proof.Machine
end

section
/-! The invariant of the machine over one step. -/

namespace Sys2Proof.Machine

/-- Settles O58, by the cases of a step: the commands by `exec_inv`, the host's accesses and a reset by their own
rules. -/
theorem stepKeepsInv : Obligations.StepKeepsInv := fun _ _ h ht => step_inv h ht

end Sys2Proof.Machine
end

section
/-! The register window access by access: what each host read returns and each host write changes (10_state.md R36 to
R63, 20_memory.md R66). -/

namespace Sys2Proof.Machine

/-! The words of the registers as sums of their fields. -/

/-- Of two fields the upper one counts by the width of the lower. -/
theorem toNat_append_eq_add {m n : Nat} (x : BitVec m) (y : BitVec n) :
    (x ++ y).toNat = x.toNat * 2 ^ n + y.toNat := by
  rw [BitVec.toNat_append, ← Nat.shiftLeft_add_eq_or_of_lt y.isLt, Nat.shiftLeft_eq]

/-- A truncation keeps the low bits (00_scope.md R8). -/
theorem setWidth_eq_ofNat_mod {n : Nat} (w : Nat) (x : BitVec n) :
    x.setWidth w = BitVec.ofNat w (x.toNat % 2 ^ w) := by
  apply BitVec.eq_of_toNat_eq
  simp

/-- The two numberings of the phases agree (10_state.md R24). -/
theorem phaseBits_toNat (p : Phase) : (phaseBits p).toNat = phaseNumber p := by cases p <;> rfl

/-- The two numberings of the error codes agree (60_exceptions.md R230). -/
theorem errorBits_setWidth (e : ErrorCode) : (errorBits e).setWidth 32 = BitVec.ofNat 32 (errorNumber e) := by
  cases e <;> rfl

/-- The STATUS word (10_state.md R43). -/
theorem State.statusWord_toNat (s : State) : s.statusWord.toNat =
    s.busy.toNat + 2 * s.done.toNat + 4 * s.err.toNat + 16 * phaseNumber s.session.phase + 256 * s.inOvf.toNat +
      512 * s.hazard.toNat + 1024 * s.residual.toNat := by
  simp only [State.statusWord, toNat_append_eq_add, BitVec.toNat_ofBool, phaseBits_toNat, BitVec.toNat_ofNat]
  omega

/-- The DATA_OUT word of a byte (10_state.md R53). -/
theorem dataOutWord_cons (b : Byte) (rest : List Byte) :
    dataOutWord (b :: rest) = BitVec.ofNat 32 (0x80000000 + b.toNat) := by
  apply BitVec.eq_of_toNat_eq
  simp only [dataOutWord, toNat_append_eq_add, BitVec.toNat_ofNat]
  omega

/-- The NODE_INFO word of a valid slot (10_state.md R60). -/
theorem nodeInfoWord_toNat {nd : NodeSlot} (h : nd.valid = true) : (nodeInfoWord nd).toNat =
    1 + 2 * nd.leaf.toNat + 4 * nd.synth.toNat + 2 ^ 8 * nd.sym.toNat + 2 ^ 16 * nd.left.toNat +
      2 ^ 24 * nd.right.toNat := by
  simp only [nodeInfoWord, h, if_true, toNat_append_eq_add, BitVec.toNat_ofBool, BitVec.toNat_ofNat]
  omega

/-- The CODE_LEN word of a code (10_state.md R63). -/
theorem codeLenWord_some {c : Bits} (h : c.length < 128) :
    codeLenWord (some c) = BitVec.ofNat 32 (2 ^ 31 + c.length) := by
  apply BitVec.eq_of_toNat_eq
  simp only [codeLenWord, toNat_append_eq_add, BitVec.toNat_ofNat]
  omega

/-- The bits of a group's value, last bit of the group first (30_encoding.md R100). -/
theorem testBit_valueOfBits (g : Bits) (k : Nat) : (valueOfBits g).testBit k = g.reverse.getD k false := by
  induction g using List.reverseRecOn generalizing k with
  | nil => simp [valueOfBits]
  | append_singleton g b ih =>
    have hv : valueOfBits (g ++ [b]) = 2 * valueOfBits g + b.toNat := by simp [valueOfBits]
    rw [hv, List.reverse_append, List.reverse_singleton, List.singleton_append]
    cases k with
    | zero => cases b <;> simp
    | succ k =>
      have hhalf : (2 * valueOfBits g + b.toNat) / 2 = valueOfBits g := by
        cases b with
        | false => simp
        | true => rw [Bool.toNat_true]; omega
      rw [Nat.testBit_succ, hhalf, ih, List.getD_cons_succ]

/-- Bit `m` of the `j`-th word of a code, counted from the top (10_state.md R63). -/
theorem codeBitsWord_getLsbD (c : Bits) (j : Nat) {m : Nat} (hm : m < 32) :
    (codeBitsWord j (some c)).getLsbD (31 - m) = c.getD (32 * j + m) false := by
  have hlt : 31 - m < 32 := by omega
  have htop : 31 - (31 - m) = m := by omega
  rw [codeBitsWord, BitVec.getLsbD_ofNat, testBit_valueOfBits]
  simp [hlt, htop]

/-! Accesses. -/

variable {s : State} {off : Nat} {r : Register}

/-- A mapped offset is that of its register (10_state.md R34). -/
theorem registerAt_eq_some (h : registerAt off = some r) : off = registerOffset r := by
  unfold registerAt at h
  split at h <;> cases h <;> rfl

/-- A write of a mapped offset is a write of its register. -/
theorem busWrite_of_registerAt (h : registerAt off = some r) (v : Word) :
    busWrite off v s = writeRegister r v s := by simp [busWrite, h]

/-- A read of a mapped offset is a read of its register. -/
theorem busRead_of_registerAt (h : registerAt off = some r) : busRead off s = readRegister r s := by
  simp [busRead, h]

/-- With BUSY = 0 every register but DATA_OUT reads its value, with no side effect (10_state.md R36). -/
theorem busRead_idle (hb : s.busy = false) (h : registerAt off = some r) (hr : r ≠ .dataOut) :
    busRead off s = (s.registerValue r, s) := by
  simp [busRead_of_registerAt h, readRegister, hb, hr]

/-- The registers that stay exact while BUSY = 1 read their value whatever BUSY is (20_memory.md R66). -/
theorem busRead_exact (h : registerAt off = some r) (he : exactWhileBusy r = true) :
    busRead off s = (s.registerValue r, s) := by
  cases hb : s.busy with
  | false => exact busRead_idle hb h fun hr => by simp [hr, exactWhileBusy] at he
  | true => simp [busRead_of_registerAt h, readRegister, hb, he]

/-- Only five registers can be written (10_state.md R35). -/
theorem writeRegister_readOnly (h : r ∉ [.ctrl, .status, .cmd, .dataIn, .index]) (v : Word) :
    writeRegister r v s = s := by
  cases r with
  | ctrl | status | cmd | dataIn | index => simp at h
  | _ => rfl

/-- A write away from the five writable offsets is ignored (10_state.md R34, R35, 20_memory.md R64). -/
theorem busWrite_ignored (h : off ∉ [0x04, 0x08, 0x0C, 0x18, 0x3C]) (v : Word) : busWrite off v s = s := by
  cases hr : registerAt off with
  | none => simp [busWrite, hr]
  | some r =>
    rw [busWrite_of_registerAt hr]
    refine writeRegister_readOnly (fun hmem => h ?_) v
    rw [registerAt_eq_some hr]
    exact List.mem_map_of_mem (f := registerOffset) hmem

/-- Settles O45, by the two cases of a CMD write. -/
theorem cmdWriteAccepted : Obligations.CmdWriteAccepted := by
  intro s v
  rw [busWrite_of_registerAt (r := .cmd) rfl, busRead_exact (r := .cmd) rfl rfl]
  refine ⟨fun hb => ?_, fun hb => ?_, rfl⟩
  · simp [writeRegister, State.writeCmd, hb]
  · simp [writeRegister, State.writeCmd, hb, State.setHazard]

/-- Settles O46, by the three cases of a DATA_IN write. -/
theorem dataInAppends : Obligations.DataInAppends := by
  intro s v
  have hw : busWrite 0x18 v s = s.writeDataIn v := busWrite_of_registerAt (r := .dataIn) rfl v
  have hbyte : v.setWidth 8 = BitVec.ofNat 8 (v.toNat % 256) := setWidth_eq_ofNat_mod 8 v
  rw [hw, ← hbyte]
  refine ⟨fun hb hl => ?_, fun hb hl => ?_, fun hb => ?_, busRead_exact (r := .dataIn) rfl rfl⟩
  · simp [State.writeDataIn, hb, hl]
  · simp [State.writeDataIn, hb, hl]
  · simp [State.writeDataIn, hb, State.setHazard]

/-- Settles O47: with BUSY = 0 a read takes the head of OutBuf, with BUSY = 1 it takes nothing, and DATA_OUT is none
of the writable registers. -/
theorem dataOutPops : Obligations.DataOutPops := by
  intro s
  have hread : busRead 0x1C s = readRegister .dataOut s := busRead_of_registerAt rfl
  rw [hread]
  refine ⟨fun b rest hb ho => ?_, fun hb ho => ?_, fun hb => ?_, busWrite_ignored (by decide)⟩
  · simp [readRegister, hb, State.registerValue, ho, dataOutWord_cons, State.popOut]
  · have hpop : s.popOut = s := by rw [State.popOut, ho, List.tail_nil, ← ho]
    simp [readRegister, hb, State.registerValue, ho, dataOutWord, hpop]
  · simp [readRegister, hb, exactWhileBusy, State.setHazard]

/-- Settles O48: the bits of the written word are those the statement names. -/
theorem controlWrites : Obligations.ControlWrites := by
  intro s v
  have hkeep : ∀ i (b : Bool), (b && !v.getLsbD i) = if v.toNat.testBit i then false else b := fun i b => by
    rw [BitVec.getLsbD]
    cases v.toNat.testBit i <;> simp
  refine ⟨rfl, ?_, ?_⟩
  · rw [busWrite_of_registerAt (r := .status) rfl, writeRegister, State.writeStatus, hkeep, hkeep]
  · rw [busWrite_of_registerAt (r := .index) rfl, writeRegister, State.writeIndex, setWidth_eq_ofNat_mod 8 v]
    rfl

/-- Settles O49: none of these offsets is that of a writable register. -/
theorem readOnlyWritesIgnored : Obligations.ReadOnlyWritesIgnored := by
  intro s off v h
  refine busWrite_ignored ?_ v
  simp only [List.mem_cons, List.not_mem_nil, or_false]
  omega

/-- Settles O50, by the sum of the fields of STATUS, which stays exact while BUSY = 1. -/
theorem statusWordFields : Obligations.StatusWordFields := by
  intro s
  rw [busRead_exact (r := .status) rfl rfl]
  exact ⟨rfl, s.statusWord_toNat⟩

/-! The inspection windows. -/

/-- The symbol of the windows is IDX[6:0] (10_state.md R60). -/
theorem State.windowSymbol_eq (s : State) : s.windowSymbol = BitVec.ofNat 7 (s.idx.toNat % 128) :=
  setWidth_eq_ofNat_mod 7 s.idx

/-- The four CODE_BITS registers stand one behind the other (10_state.md R34, R63). -/
theorem busRead_codeBits (hb : s.busy = false) {j : Nat} (hj : j < 4) :
    busRead (0x50 + 4 * j) s = (codeBitsWord j (s.session.codeOf s.windowSymbol), s) := by
  match j, hj with
  | 0, _ => exact busRead_idle (r := .codeBits0) hb rfl nofun
  | 1, _ => exact busRead_idle (r := .codeBits1) hb rfl nofun
  | 2, _ => exact busRead_idle (r := .codeBits2) hb rfl nofun
  | 3, _ => exact busRead_idle (r := .codeBits3) hb rfl nofun

/-- The slot windows of a slot that is not valid read 0 (10_state.md R60). -/
theorem busRead_nodeWindows_invalid (hb : s.busy = false) (hv : s.windowSlot.valid = false) :
    busRead 0x44 s = (0, s) ∧ busRead 0x48 s = (0, s) := by
  rw [busRead_idle (r := .nodeInfo) hb rfl nofun, busRead_idle (r := .nodeWeight) hb rfl nofun]
  simp [State.registerValue, nodeInfoWord, nodeWeightWord, hv]

/-- Settles O51, window by window: IDX = 255 shows the empty slot, and bit k of a code stands in word k div 32. -/
theorem windowReads : Obligations.WindowReads := by
  intro s hb
  have hlen : busRead 0x4C s = (codeLenWord (s.session.codeOf s.windowSymbol), s) :=
    busRead_idle (r := .codeLen) hb rfl nofun
  rw [← s.windowSymbol_eq]
  refine ⟨busRead_idle (r := .freqCount) hb rfl nofun, fun hv => ⟨?_, ?_⟩, fun hv => ?_,
    fun c hc hl => ⟨?_, fun k hk => ?_⟩, fun hc j hj => ?_⟩
  · rw [busRead_idle (r := .nodeInfo) hb rfl nofun]
    exact nodeInfoWord_toNat hv
  · rw [busRead_idle (r := .nodeWeight) hb rfl nofun]
    exact congrArg (·, s) (if_pos hv)
  · refine busRead_nodeWindows_invalid hb ?_
    obtain hv | hi := hv
    · exact hv
    · rw [State.windowSlot, hi]
      exact congrArg NodeSlot.valid (slotAt_of_ge s.session.node (by decide))
  · rw [hlen, hc, codeLenWord_some hl]
  · rw [busRead_codeBits hb (by omega), hc, codeBitsWord_getLsbD c _ (Nat.mod_lt k (by decide)), Nat.div_add_mod]
  · match j, hj with
    | 0, _ => rw [hlen, hc]; rfl
    | j + 1, hj =>
      have hoff : 0x4C + 4 * (j + 1) = 0x50 + 4 * j := by omega
      rw [hoff, busRead_codeBits hb (by omega), hc]
      rfl

/-- Settles O53: each of these registers reads its value, which for the narrower fields is their zero extension. -/
theorem resultReads : Obligations.ResultReads := by
  intro s hb
  have hread : ∀ r, r ≠ .dataOut → busRead (registerOffset r) s = (s.registerValue r, s) :=
    fun r => busRead_idle hb (registerAt_offset r)
  have hirq : s.registerValue .ctrl = BitVec.ofNat 32 s.irqEn.toNat := by
    rw [State.registerValue]
    cases s.irqEn <;> rfl
  refine ⟨hread .id nofun, ?_, ?_, hread .errInfo nofun, hread .inCount nofun, hread .outCount nofun,
    hread .total nofun, ?_, ?_, hread .payloadBits nofun, hread .padding nofun, ?_, hread .inCap nofun,
    hread .outCap nofun⟩
  · exact (hread .ctrl nofun).trans (by rw [hirq])
  · exact (hread .errCode nofun).trans (by rw [State.registerValue, errorBits_setWidth])
  · exact (hread .nsym nofun).trans (by rw [State.registerValue, BitVec.ofNat_toNat])
  · exact (hread .root nofun).trans (by rw [State.registerValue, BitVec.ofNat_toNat])
  · exact (hread .index nofun).trans (by rw [State.registerValue, BitVec.ofNat_toNat])

end Sys2Proof.Machine
end

section
/-! The host's transactions: which accesses reach a register, and what a read or a write may change (20_memory.md R64
to R72). -/

namespace Sys2Proof.Machine

variable {s : State} {off addr : Nat} {r : Register}

/-! Unmapped offsets. -/

/-- Misaligned offsets and those past OUT_CAP name no register (10_state.md R34, 20_memory.md R64). -/
theorem registerAt_unmapped (h : off % 4 ≠ 0 ∨ 0x68 ≤ off) : registerAt off = none := by
  cases hr : registerAt off with
  | none => rfl
  | some r =>
    have hoff := registerAt_eq_some hr
    have hbound := registerOffset_lt r
    omega

/-- The aligned offsets up to OUT_CAP each name a register (10_state.md R34). -/
theorem registerAt_mapped (h4 : off % 4 = 0) (hlt : off < 0x68) : ∃ r, registerAt off = some r := by
  have hall : ∀ k < 26, (registerAt (4 * k)).isSome := by decide
  obtain ⟨k, rfl⟩ := Nat.dvd_of_mod_eq_zero h4
  exact Option.isSome_iff_exists.mp (hall k (by omega))

/-- Settles O42: such an offset names no register. -/
theorem unmappedAccess : Obligations.UnmappedAccess := by
  intro s off v h
  simp [busRead, busWrite, registerAt_unmapped h]

/-! Side effects of reads. -/

/-- Everything a read can do to the state (20_memory.md R66, R67, R72). -/
theorem busRead_state_cases (off : Nat) (s : State) :
    (busRead off s).2 = s ∨ (busRead off s).2 = s.drawn ∨
    off = 0x1C ∧ ((busRead off s).2 = s.popOut ∨ (busRead off s).2 = s.setHazard) := by
  cases hr : registerAt off with
  | none => simp [busRead, hr]
  | some r =>
    have hoff := registerAt_eq_some hr
    rw [busRead_of_registerAt hr]
    obtain ⟨he, -⟩ | ⟨-, rfl, he⟩ | ⟨-, rfl, he⟩ | ⟨-, -, -, he⟩ := readRegister_cases r s <;> rw [he]
    · exact .inl rfl
    · exact .inr (.inr ⟨hoff, .inl rfl⟩)
    · exact .inr (.inr ⟨hoff, .inr rfl⟩)
    · exact .inr (.inl rfl)

/-- Settles O52: away from DATA_OUT a read at most draws a free value. -/
theorem onlyDataOutReadHasSideEffect : Obligations.OnlyDataOutReadHasSideEffect := by
  intro s off hoff
  obtain he | he | ⟨hdata, -⟩ := busRead_state_cases off s
  · rw [he]
  · rw [he]; rfl
  · exact absurd hdata hoff

/-- The block keeps no record of what its reads returned (log entry 6). -/
@[simp] theorem busRead_responses (off : Nat) (s : State) : (busRead off s).2.responses = s.responses := by
  obtain he | he | ⟨-, he | he⟩ := busRead_state_cases off s <;> rw [he] <;> rfl

/-! Accesses while BUSY = 1. -/

/-- The offsets whose reads stay exact while BUSY = 1 (20_memory.md R66). -/
theorem registerOffset_of_exact (he : exactWhileBusy r = true) :
    registerOffset r ∈ [0x00, 0x04, 0x08, 0x3C, 0x60, 0x64, 0x0C, 0x18] := by
  cases r with
  | id | ctrl | status | index | inCap | outCap | cmd | dataIn => decide
  | _ => cases he

/-- While BUSY = 1 a read of any other register but DATA_OUT draws a free value (20_memory.md R67; log entry 7). -/
theorem busRead_free (hb : s.busy = true) (h : registerAt off = some r) (he : exactWhileBusy r = false)
    (hr : r ≠ .dataOut) : busRead off s = (Config.unspecifiedRead s.drawCount, s.drawn) := by
  simp [busRead_of_registerAt h, readRegister, hb, he, hr]

/-- Settles O43: the exact registers read their value, DATA_OUT is the refused read, and the offsets of R67 name
registers that are neither. -/
theorem readsWhileBusy : Obligations.ReadsWhileBusy := by
  intro s hb
  have hctrl : s.registerValue .ctrl = (BitVec.ofBool s.irqEn).setWidth 32 := by
    rw [State.registerValue]
    cases s.irqEn <;> rfl
  have hexact : ∀ r, exactWhileBusy r = true → busRead (registerOffset r) s = (s.registerValue r, s) :=
    fun r => busRead_exact (registerAt_offset r)
  obtain ⟨-, -, hdataOut, -⟩ := dataOutPops s
  refine ⟨hexact .id rfl, (hexact .ctrl rfl).trans (by rw [hctrl]), hexact .status rfl, hexact .index rfl,
    hexact .inCap rfl, hexact .outCap rfl, hexact .cmd rfl, hexact .dataIn rfl, hdataOut hb,
    fun off h4 hopen => ?_⟩
  obtain ⟨r, hr⟩ := registerAt_mapped h4 (by omega)
  obtain rfl := registerAt_eq_some hr
  refine ⟨_, busRead_free hb hr (Bool.eq_false_iff.mpr fun he => ?_) fun hdata => ?_⟩
  · have hmem := registerOffset_of_exact he
    simp only [List.mem_cons, List.not_mem_nil, or_false] at hmem
    omega
  · rw [hdata, registerOffset] at hopen
    omega

/-- A write away from CMD and DATA_IN does not depend on BUSY and keeps it (20_memory.md R66). -/
theorem busWrite_withBusy (hcmd : off ≠ 0x0C) (hdata : off ≠ 0x18) (v : Word) (s : State) (b : Bool) :
    busWrite off v { s with busy := b } = { busWrite off v s with busy := b } := by
  by_cases hw : off = 0x04 ∨ off = 0x08 ∨ off = 0x3C
  · obtain rfl | rfl | rfl := hw <;> rfl
  · have hro : off ∉ [0x04, 0x08, 0x0C, 0x18, 0x3C] := by
      simp only [List.mem_cons, List.not_mem_nil, or_false]
      omega
    rw [busWrite_ignored hro, busWrite_ignored hro]

/-- Settles O44: CMD and DATA_IN refuse the write, and every other write does not depend on BUSY. -/
theorem writesWhileBusy : Obligations.WritesWhileBusy := by
  intro s v hb
  obtain ⟨-, hrefuseCmd, -⟩ := cmdWriteAccepted s v
  obtain ⟨-, -, hrefuseData, -⟩ := dataInAppends s v
  refine ⟨hrefuseCmd hb, hrefuseData hb, fun off hcmd hdata => ?_⟩
  calc busWrite off v s
    _ = busWrite off v { s with busy := true } := by rw [← hb]
    _ = { busWrite off v { s with busy := false } with busy := true } :=
      busWrite_withBusy hcmd hdata v { s with busy := false } true

/-! Addresses of the host's bus. -/

/-- BASE + off is the address of off (20_memory.md R68). -/
theorem offsetOf_base_add (p : Params) (off : Nat) : offsetOf p (p.base + off) = some off := by simp [offsetOf]

/-- Below BASE there is no offset (20_memory.md R68; log entry 3). -/
theorem offsetOf_below {p : Params} (h : addr < p.base) : offsetOf p addr = none := by simp [offsetOf, h]

/-- A host read at BASE + off is a read at off, its value recorded (20_memory.md R65, R68). -/
theorem hostRead_base_add (off : Nat) (s : State) : hostRead (s.params.base + off) s =
    { (busRead off s).2 with responses := s.responses ++ [(busRead off s).1] } := by
  simp [hostRead, offsetOf_base_add]

/-- A host write at BASE + off is a write at off (20_memory.md R65, R68). -/
theorem hostWrite_base_add (off : Nat) (v : Word) (s : State) :
    hostWrite (s.params.base + off) v s = busWrite off v s := by
  simp [hostWrite, offsetOf_base_add]

/-- A host read below BASE records 0 (log entry 3). -/
theorem hostRead_below (h : addr < s.params.base) :
    hostRead addr s = { s with responses := s.responses ++ [0] } := by
  simp [hostRead, offsetOf_below h]

/-- A host write below BASE changes nothing (log entry 3). -/
theorem hostWrite_below (h : addr < s.params.base) (v : Word) : hostWrite addr v s = s := by
  simp [hostWrite, offsetOf_below h]

/-- Settles O6: the step performs the scheduled transaction, whose address is BASE + off or lies below BASE. -/
theorem hostTransactionsReachWindow : Obligations.HostTransactionsReachWindow := by
  intro s rest v
  refine ⟨fun off => ⟨?_, ?_⟩, fun addr h => ⟨?_, ?_⟩⟩ <;> rw [step_cons rfl]
  · exact congrArg _ (hostRead_base_add off { s with schedule := rest })
  · exact congrArg _ (hostWrite_base_add off v { s with schedule := rest })
  · exact congrArg _ (hostRead_below (s := { s with schedule := rest }) h)
  · exact congrArg _ (hostWrite_below (s := { s with schedule := rest }) h v)

end Sys2Proof.Machine
end

section
/-! The command words: RSV and OP determine the word, and the opcode map is undone by `opcode` (30_encoding.md R90 to
R93); the length of a packed payload (R102). -/

namespace Sys2Proof

variable {w : Word} {i : Instr}

/-! The two fields of a word. -/

/-- RSV is bits 31:4 (30_encoding.md R91). -/
@[simp] theorem rsvField_toNat (w : Word) : (rsvField w).toNat = w.toNat / 16 := by
  simp only [rsvField, BitVec.extractLsb'_toNat, Nat.shiftRight_eq_div_pow]
  omega

/-- OP is bits 3:0 (30_encoding.md R91). -/
@[simp] theorem opField_toNat (w : Word) : (opField w).toNat = w.toNat % 16 := by
  simp [opField, BitVec.extractLsb'_toNat]

/-- RSV is 0 exactly in the words below 0x10 (30_encoding.md R91). -/
theorem rsvField_eq_zero_iff : rsvField w = 0#28 ↔ w.toNat / 16 = 0 := by
  rw [← BitVec.toNat_inj, rsvField_toNat, BitVec.toNat_zero]

/-- A command's word counts as its opcode, RSV being 0 (30_encoding.md R91). -/
theorem encode_toNat (i : Instr) : (encode i).toNat = (opcode i).toNat :=
  (BitVec.toNat_append 0#28 (opcode i)).trans (by simp)

/-- A word is a command's word exactly when RSV is 0 and OP is the command's opcode (30_encoding.md R91, R92). -/
theorem eq_encode_iff : w = encode i ↔ rsvField w = 0#28 ∧ opField w = opcode i := by
  rw [rsvField_eq_zero_iff, ← BitVec.toNat_inj, ← BitVec.toNat_inj, encode_toNat, opField_toNat]
  have hop := (opcode i).isLt
  omega

/-! The opcode map. -/

/-- The map gives a command exactly at its opcode (30_encoding.md R92). -/
theorem decodeOp_eq_ok_iff {op : BitVec 4} : decodeOp op = .ok i ↔ op = opcode i := by
  revert op
  cases i <;> decide

/-- The map assigns 0x0 to 0x8 (30_encoding.md R92). -/
theorem decodeOp_isOk (op : BitVec 4) : (decodeOp op).isOk = decide (op.toNat < 9) := by
  revert op
  decide

/-- The map rejects 0x9 to 0xF (30_encoding.md R93). -/
theorem decodeOp_eq_error_iff {op : BitVec 4} : (∃ e, decodeOp op = .error e) ↔ 9 ≤ op.toNat := by
  have hassigned := decodeOp_isOk op
  cases hd : decodeOp op <;> simpa [hd, Except.isOk, Except.toBool] using hassigned

/-! Decoding. -/

/-- With RSV = 0 the opcode map decides (30_encoding.md R90). -/
theorem decode_of_rsvField_zero (h : rsvField w = 0#28) : decode w = decodeOp (opField w) := by simp [decode, h]

/-- With RSV not 0 the word is rejected (30_encoding.md R91, R93). -/
theorem decode_of_rsvField_ne_zero (h : rsvField w ≠ 0#28) : decode w = .error .reservedBits := by simp [decode, h]

/-- A word decodes to the command whose word it is (30_encoding.md R90, R92). -/
theorem decode_eq_ok_iff : decode w = .ok i ↔ w = encode i := by
  rw [eq_encode_iff]
  by_cases hrsv : rsvField w = 0#28
  · simp [decode_of_rsvField_zero hrsv, hrsv, decodeOp_eq_ok_iff]
  · simp [decode_of_rsvField_ne_zero hrsv, hrsv]

/-- Decoding undoes encoding (30_encoding.md R90). -/
@[simp] theorem decode_encode (i : Instr) : decode (encode i) = .ok i := decode_eq_ok_iff.mpr rfl

end Sys2Proof

namespace Sys2Proof.Machine

/-- The rejected words are the illegal ones (30_encoding.md R93). -/
theorem decode_eq_error_iff (w : Word) : (∃ e, decode w = .error e) ↔ IsIllegalWord w := by
  unfold IsIllegalWord
  by_cases hrsv : rsvField w = 0#28
  · rw [decode_of_rsvField_zero hrsv, decodeOp_eq_error_iff, opField_toNat]
    simp [rsvField_eq_zero_iff.mp hrsv]
  · simp [decode_of_rsvField_ne_zero hrsv, rsvField_eq_zero_iff.not.mp hrsv]

/-- Settles O1: RSV and OP determine the word, and the opcode map is undone by `opcode`. -/
theorem decodeMatchesEncode : Obligations.DecodeMatchesEncode :=
  ⟨fun _ _ => decode_eq_ok_iff, decode_eq_error_iff⟩

/-- Settles O2: each of the nine words is its command's word. -/
theorem opcodeWordsDecode : Obligations.OpcodeWordsDecode :=
  ⟨decode_encode .nop, decode_encode .clear, decode_encode .analyze, decode_encode .buildTree,
    decode_encode .genTable, decode_encode .encode, decode_encode .pack, decode_encode .unpack,
    decode_encode .decode⟩

/-- Settles O38: the bytes hold the payload and its padding, which completes the last group. -/
theorem packedLength : Obligations.PackedLength := by
  intro P
  have hlen : 8 * (packBytes P).length = P.length + (8 - P.length % 8) := packBytes_length P
  exact ⟨by omega, hlen⟩

end Sys2Proof.Machine
end

section
/-! ANALYZE at the command: its two errors, and what it answers for every source it accepts (40_analyze.md R121 to
R130). -/

namespace Sys2Proof.Machine

variable {s : State} {src : List Byte}

/-! What the command answers. -/

/-- A consuming command that fails leaves exactly what `failedConsuming` says (45_session.md R220, R221). -/
theorem State.fail_of_consuming {i : Instr} (hc : consuming i = true) (code : ErrorCode) (info : Nat) :
    s.fail i code (BitVec.ofNat 32 info) = s.failedConsuming code info := by
  rw [State.fail_eq, hc]; rfl

/-- Without IN_OVF, ANALYZE is decided by its body in every phase (60_exceptions.md R237, R240). -/
theorem exec_analyze_eq_finish (ho : s.inOvf = false) : exec .analyze s = finish .analyze s (analyzeBody s) :=
  (exec_eq .analyze s).trans (runCommand_of_allowed (by simp [ho]) rfl)

/-- ANALYZE raises its body's error (45_session.md R220). -/
theorem exec_analyze_of_raise (ho : s.inOvf = false) {code : ErrorCode} {info : Nat}
    (hb : analyzeBody s = .raise code (BitVec.ofNat 32 info)) :
    exec .analyze s = .next (s.failedConsuming code info) := by
  rw [exec_analyze_eq_finish ho, hb, finish_raise, State.fail_of_consuming rfl]

/-- The scan of a source of symbols finds no byte (40_analyze.md R124). -/
theorem findIdx?_outOfRange_eq_none (h : ∀ b ∈ src, b.toNat < 0x80) : src.findIdx? outOfRange = none :=
  List.findIdx?_eq_none_iff.mpr fun b hb => by simpa [outOfRange] using h b hb

/-- The body of ANALYZE on a source it accepts (40_analyze.md R120). -/
theorem analyzeBody_of_sourceOk (h : SourceOk s.inBuf) :
    analyzeBody s = .done (s.withSession (analyzedSession s.inBuf)) [] := by
  simp [analyzeBody, h.nonempty, findIdx?_outOfRange_eq_none h.symbols]

/-- The state ANALYZE answers for a source it accepts (40_analyze.md R120, 45_session.md R220). -/
def State.afterAnalyze (s : State) : State :=
  { s.succeeded with session := analyzedSession s.inBuf, inBuf := [], inOvf := false }

/-- ANALYZE of a source it accepts succeeds, its output being empty (40_analyze.md R120, 45_session.md R222). -/
theorem exec_analyze_of_sourceOk (ho : s.inOvf = false) (h : SourceOk s.inBuf)
    (hfit : s.outBuf.length ≤ s.params.outCap) : exec .analyze s = .next s.afterAnalyze := by
  rw [exec_analyze_eq_finish ho, analyzeBody_of_sourceOk h, finish_done (by simpa using hfit), State.commit_eq,
    List.append_nil]
  rfl

/-! The errors. -/

/-- Settles O20: the body tests for the empty source before it reads a byte. -/
theorem analyzeEmptySource : Obligations.AnalyzeEmptySource := fun _ ho he =>
  exec_analyze_of_raise ho (if_pos he)

/-- The first byte of 0x80 or above is found at its index (40_analyze.md R124). -/
theorem findIdx?_outOfRange {xs ys : List Byte} {b : Byte} (hxs : ∀ x ∈ xs, x.toNat < 0x80)
    (hb : 0x80 ≤ b.toNat) : (xs ++ b :: ys).findIdx? outOfRange = some xs.length := by
  simp [List.findIdx?_append, List.findIdx?_cons, findIdx?_outOfRange_eq_none hxs, outOfRange, hb]

/-- Settles O21: the scan stops at the first byte that is no symbol. -/
theorem analyzeSymbolRange : Obligations.AnalyzeSymbolRange := by
  intro s xs ys b ho hin hxs hb
  refine exec_analyze_of_raise ho ?_
  simp [analyzeBody, hin, findIdx?_outOfRange hxs hb]

/-! The counts. -/

/-- The count ANALYZE commits for a symbol is the number of bytes of its value (40_analyze.md R121). -/
theorem countOf_analyzedSession_toNat (hlen : src.length < 2 ^ 32) {c : Nat} (hc : c < 128) :
    ((analyzedSession src).countOf (BitVec.ofNat 7 c)).toNat = (src.filter fun b => b.toNat = c).length := by
  calc ((analyzedSession src).countOf (BitVec.ofNat 7 c)).toNat
      = (BitVec.ofNat 32 (occurrences src c)).toNat := by
        rw [countOf_analyzedSession, BitVec.toNat_ofNat (w := 7), Nat.mod_eq_of_lt hc]
    _ = occurrences src c := recordOf_weight_toNat hlen c
    _ = (src.filter fun b => b.toNat = c).length := by
        rw [occurrences_eq_count_toNat src hc, List.count, List.countP_map, List.countP_eq_length_filter]
        rfl

/-- ANALYZE leaves no code assigned (40_analyze.md R129). -/
theorem codeOf_analyzedSession (src : List Byte) (c : Symbol) : (analyzedSession src).codeOf c = none := by
  have hc : c.toNat < 128 := c.isLt
  simp [Session.codeOf, analyzedSession, noCodes, hc]

/-- Settles O18: the committed session is `analyzedSession`, whose counts are those of the source. -/
theorem analyzeCountsSymbols : Obligations.AnalyzeCountsSymbols := by
  intro s ho hne hsym hlen hfit
  have hsrc : SourceOk s.inBuf := ⟨hne, hsym, hlen⟩
  exact ⟨s.afterAnalyze, exec_analyze_of_sourceOk ho hsrc hfit, rfl, rfl, total_analyzedSession hsrc,
    fun _ hc => countOf_analyzedSession_toNat hlen hc, rfl, codeOf_analyzedSession s.inBuf⟩

/-! The synthetic leaf: none with two symbols, the first of two leaves with one. -/

/-- A symbol of the source has its record (40_analyze.md R122). -/
theorem recordOf_mem_sortRecords (h : SourceOk src) {b : Byte} (hb : b ∈ src) :
    recordOf src b.toNat ∈ sortRecords (symbolRecords src) :=
  mem_sortRecords.mpr ⟨b.toNat, h.symbols b hb, List.count_pos_iff.mpr (by simpa using hb), rfl⟩

/-- Different symbols have different records. -/
theorem recordOf_injOn (src : List Byte) {a b : Byte} (ha : a.toNat < 0x80) (hb : b.toNat < 0x80)
    (hab : recordOf src a.toNat = recordOf src b.toNat) : a = b := by
  have hsym := congrArg (fun r => r.sym.toNat) hab
  simp only [recordOf_sym_toNat src ha, recordOf_sym_toNat src hb] at hsym
  exact BitVec.eq_of_toNat_eq hsym

/-- Two distinct bytes give two records or more (40_analyze.md R122). -/
theorem two_le_length_sortRecords (h : SourceOk src) {a b : Byte} (ha : a ∈ src) (hb : b ∈ src) (hab : a ≠ b) :
    2 ≤ (sortRecords (symbolRecords src)).length := by
  have hne : recordOf src a.toNat ≠ recordOf src b.toNat :=
    fun he => hab (recordOf_injOn src (h.symbols a ha) (h.symbols b hb) he)
  have hsub : [recordOf src a.toNat, recordOf src b.toNat] ⊆ sortRecords (symbolRecords src) := by
    simp [recordOf_mem_sortRecords h ha, recordOf_mem_sortRecords h hb]
  exact (List.Nodup.subperm (List.pairwise_pair.mpr hne) hsub).length_le

/-- A synthetic record is added to a single record only (40_analyze.md R126). -/
theorem addSynthetic_of_two {l : List FreqRecord} (h : 2 ≤ l.length) : addSynthetic l = l := by
  match l with
  | [] => rfl
  | [_] => simp at h
  | _ :: _ :: _ => rfl

/-- With two distinct bytes no leaf is synthetic (40_analyze.md R126). -/
theorem synth_analyzedSession_of_two (h : SourceOk src) {a b : Byte} (ha : a ∈ src) (hb : b ∈ src) (hab : a ≠ b)
    {i : Nat} (hi : i < (analyzedSession src).nsym.toNat) : ((analyzedSession src).slot i).synth = false := by
  rw [nsym_analyzedSession h] at hi
  have hmem : (sortedRecords src)[i] ∈ sortRecords (symbolRecords src) := by
    rw [← addSynthetic_of_two (two_le_length_sortRecords h ha hb hab)]
    exact List.getElem_mem hi
  rw [slot_analyzedSession_leaf h hi]
  exact (record_of_mem_sortRecords h hmem).2.2

/-- Every symbol has at most one record. -/
theorem nodup_symbolRecords (src : List Byte) : (symbolRecords src).Nodup :=
  (pairwise_symbolRecords src).imp fun hlt he => by simp [he] at hlt

/-- The records of a source of one symbol (40_analyze.md R122, R126). -/
theorem sortRecords_of_single (h : SourceOk src) {b : Byte} (hb : ∀ a ∈ src, a = b) :
    sortRecords (symbolRecords src) = [recordOf src b.toNat] := by
  obtain ⟨a, ha⟩ := List.exists_mem_of_ne_nil src h.nonempty
  obtain rfl := hb a ha
  have hmem : ∀ r, r ∈ symbolRecords src ↔ r ∈ [recordOf src a.toNat] := by
    intro r
    rw [List.mem_singleton]
    constructor
    · intro hr
      obtain ⟨c, hc, hocc, rfl⟩ := mem_symbolRecords.mp hr
      have hca : BitVec.ofNat 8 c = a := hb _ (List.count_pos_iff.mp hocc)
      rw [← hca, BitVec.toNat_ofNat, Nat.mod_eq_of_lt (by omega)]
    · rintro rfl
      exact (sortRecords_perm _).mem_iff.mp (recordOf_mem_sortRecords h ha)
  have hperm := (List.perm_ext_iff_of_nodup (nodup_symbolRecords src) (List.nodup_singleton _)).mpr hmem
  exact List.perm_singleton.mp ((sortRecords_perm _).trans hperm)

/-- A source of one symbol holds it as often as it is long (40_analyze.md R121). -/
theorem occurrences_of_all_eq {b : Byte} (hb : ∀ a ∈ src, a = b) : occurrences src b.toNat = src.length := by
  rw [occurrences, BitVec.ofNat_toNat, BitVec.setWidth_eq]
  exact List.count_eq_length.mpr fun a ha => (hb a ha).symm

/-- The symbol after one, wrapping at 128 (40_analyze.md R126). -/
theorem ofNat_add_one_mod (n : Nat) : BitVec.ofNat 7 n + 1 = BitVec.ofNat 7 ((n + 1) % 128) := by
  simp [← BitVec.toNat_inj]

/-- With one distinct byte the leaves are the synthetic one, of the next symbol and weight 0, and the byte's
(40_analyze.md R126). -/
theorem leaves_analyzedSession_of_single (h : SourceOk src) {b : Byte} (hb : ∀ a ∈ src, a = b) :
    (analyzedSession src).nsym = 2 ∧
    (analyzedSession src).slot 0 = ⟨true, true, true, BitVec.ofNat 7 ((b.toNat + 1) % 128), 0, 0xFF, 0xFF⟩ ∧
    (analyzedSession src).slot 1 =
      ⟨true, true, false, BitVec.ofNat 7 b.toNat, BitVec.ofNat 32 src.length, 0xFF, 0xFF⟩ := by
  have hrecs : sortedRecords src =
      [{ sym := (recordOf src b.toNat).sym + 1, weight := 0, synth := true }, recordOf src b.toNat] :=
    congrArg addSynthetic (sortRecords_of_single h hb)
  refine ⟨BitVec.eq_of_toNat_eq (by rw [nsym_analyzedSession h, hrecs]; rfl), ?_, ?_⟩
  · rw [slot_analyzedSession h, hrecs, ← ofNat_add_one_mod]; rfl
  · rw [slot_analyzedSession h, hrecs, ← occurrences_of_all_eq hb]; rfl

/-- Settles O19: the leaves are in order, and the number of records decides on the synthetic one. -/
theorem analyzeSortsRecords : Obligations.AnalyzeSortsRecords := by
  intro s ho hne hsym hlen hfit
  have hsrc : SourceOk s.inBuf := ⟨hne, hsym, hlen⟩
  refine ⟨s.afterAnalyze, exec_analyze_of_sourceOk ho hsrc hfit, leavesOk_analyzedSession hsrc le_rfl,
    unusedFrom_analyzedSession hsrc, ?_, fun b hb => leaves_analyzedSession_of_single hsrc hb⟩
  rintro ⟨a, ha, b, hb, hab⟩ i hi
  exact synth_analyzedSession_of_two hsrc ha hb hab hi

/-! The probabilities. -/

variable {cap : Nat} {S : Session}

/-- A synthetic leaf weighs nothing, so the others weigh the total (40_analyze.md R126, R130). -/
theorem LeavesOk.sum_realLeaves (h : LeavesOk cap S) :
    (S.realLeaves.map fun i => (S.slot i).weight.toNat).sum = S.total.toNat := by
  have hsynth : (((List.range S.nsym.toNat).filter fun i => ¬ (!(S.slot i).synth) = true).map
      fun i => (S.slot i).weight.toNat).sum = 0 := by
    refine List.sum_eq_zero fun w hw => ?_
    obtain ⟨i, hi, rfl⟩ := List.mem_map.mp hw
    obtain ⟨hlt, hs⟩ := List.mem_filter.mp hi
    simp [(h.synth_iff i (List.mem_range.mp hlt)).mp (by simpa using hs)]
  have hsplit := List.sum_map_filter_add_sum_map_filter_not (fun i => (!(S.slot i).synth) = true)
    (fun i => (S.slot i).weight.toNat) (List.range S.nsym.toNat)
  rw [hsynth, add_zero, h.leaf_sum] at hsplit
  simpa [Session.realLeaves] using hsplit

/-- The probabilities of the leaves that are not synthetic sum to exactly 1 (40_analyze.md R130). -/
theorem LeavesOk.sum_probability (h : LeavesOk cap S) : (S.realLeaves.map S.probability).sum = 1 := by
  have htotal : (S.total.toNat : ℚ) ≠ 0 := Nat.cast_ne_zero.mpr (Nat.one_le_iff_ne_zero.mp h.total_pos)
  calc (S.realLeaves.map S.probability).sum
      = (S.realLeaves.map fun i => ((S.slot i).weight.toNat : ℚ)).sum * (S.total.toNat : ℚ)⁻¹ := by
        rw [← List.sum_map_mul_right]; rfl
    _ = ((S.realLeaves.map fun i => (S.slot i).weight.toNat).sum : ℚ) * (S.total.toNat : ℚ)⁻¹ := by
        rw [Nat.cast_list_sum, List.map_map]; rfl
    _ = 1 := by rw [h.sum_realLeaves, mul_inv_cancel₀ htotal]

/-- A synthetic leaf has probability 0 (40_analyze.md R130). -/
theorem LeavesOk.probability_synth (h : LeavesOk cap S) {i : Nat} (hi : i < S.nsym.toNat)
    (hs : (S.slot i).synth = true) : S.probability i = 0 := by
  simp [Session.probability, (h.synth_iff i hi).mp hs]

/-- Settles O22: the leaves ANALYZE commits are in order, and weigh the total. -/
theorem probabilitiesSumToOne : Obligations.ProbabilitiesSumToOne := by
  intro s ho hne hsym hlen hfit
  have hsrc : SourceOk s.inBuf := ⟨hne, hsym, hlen⟩
  have hl : LeavesOk s.inBuf.length s.afterAnalyze.session := leavesOk_analyzedSession hsrc le_rfl
  exact ⟨s.afterAnalyze, exec_analyze_of_sourceOk ho hsrc hfit, hl.sum_realLeaves, hl.sum_probability,
    fun _ hi hs => hl.probability_synth hi hs⟩

end Sys2Proof.Machine
end

section
/-! BUILD_TREE as a command: what it answers, and the paths of the tree it commits (41_tree.md R140, R148, R150). -/

namespace Sys2Proof.Machine

variable {s t : State} {cap : Nat} {S S' : Session}

/-! What the command answers. -/

/-- The state BUILD_TREE answers when it commits the session `S` (41_tree.md R140, 45_session.md R220). -/
def State.withTree (S : Session) (s : State) : State := { s.succeeded with session := S }

@[simp] theorem State.withTree_session (S : Session) (s : State) : (s.withTree S).session = S := rfl

/-- BUILD_TREE commits the tree where there is one and OutBuf is within its capacity, its output being empty
(41_tree.md R140, 45_session.md R222). -/
theorem exec_buildTree_of_some (hp : s.session.phase ≠ .empty) (hS : buildTree s.session = some S)
    (hfit : s.outBuf.length ≤ s.params.outCap) : exec .buildTree s = .next (s.withTree S) := by
  have hb : bodyOf .buildTree s = .done (s.withSession S) [] := by simp [bodyOf, buildTreeBody, hS]
  rw [exec_eq, runCommand_of_allowed rfl (by simpa [allowedIn] using hp), hb, finish_done (by simpa using hfit),
    State.commit_eq, List.append_nil]
  rfl

/-- A BUILD_TREE without an error has committed a tree (45_session.md R220). -/
theorem exec_buildTree_some (he : exec .buildTree s = .next t) (herr : t.errCode = .none) :
    s.session.phase ≠ .empty ∧ s.outBuf.length ≤ s.params.outCap ∧
      ∃ S, buildTree s.session = some S ∧ t = s.withTree S := by
  have he' := he
  rw [exec_eq] at he'
  obtain ⟨-, -, rfl⟩ | ⟨-, ⟨-, rfl⟩ | ⟨ha, ⟨code, info, hb, rfl⟩ | ⟨s', out, hb, ⟨-, rfl⟩ | ⟨hfit, -⟩⟩⟩⟩ :=
    runCommand_cases he'
  · cases herr
  · cases herr
  · exact absurd herr (bodyOf_raise_ne_none hb)
  · cases herr
  · have hp : s.session.phase ≠ .empty := by simpa [allowedIn] using ha
    have hout : s.outBuf.length ≤ s.params.outCap := (Nat.le_add_right _ _).trans hfit
    cases hS : buildTree s.session with
    | none => simp [bodyOf, buildTreeBody, hS] at hb
    | some S =>
      rw [exec_buildTree_of_some hp hS hout] at he
      cases he
      exact ⟨hp, hout, S, rfl, rfl⟩

/-- From a state that meets the invariant and holds an analysis, BUILD_TREE commits the tree over its leaves
(41_tree.md R146). -/
theorem Inv.exec_buildTree (h : Inv s) (hp : s.session.phase ≠ .empty) :
    ∃ S, buildTree s.session = some S ∧ exec .buildTree s = .next (s.withTree S) := by
  have hl := h.session.leavesOk hp
  obtain ⟨S, hS⟩ := buildTree_some hl.nsym_ge hl.nsym_le
  exact ⟨S, hS, exec_buildTree_of_some hp hS h.outBuf_le⟩

/-! The paths of a tree. -/

/-- The slot a bit leads to from slot `i`, 0 for left and 1 for right (42_table.md R161). -/
def Session.child (S : Session) (i : Nat) (b : Bool) : Nat := (if b then (S.slot i).right else (S.slot i).left).toNat

/-- The last bit of a path is taken at an internal slot (42_table.md R161). -/
theorem follow_concat {N : Vector NodeSlot 255} {i k : Nat} {c : Bits} {b : Bool}
    (h : follow N i (c ++ [b]) = some k) : ∃ m nd, follow N i c = some m ∧ N[m]? = some nd ∧ nd.leaf = false ∧
      (if b then nd.right else nd.left).toNat = k := by
  rw [follow_append] at h
  obtain ⟨m, hm, hk⟩ := Option.bind_eq_some_iff.mp h
  cases hn : N[m]? with
  | none => simp [follow, hn] at hk
  | some nd =>
    cases hleaf : nd.leaf with
    | true => simp [follow_leaf hn hleaf] at hk
    | false => exact ⟨m, nd, hm, hn, hleaf, by simpa [follow_cons hn hleaf] using hk⟩

/-- A path from a node leads to nodes (41_tree.md R150). -/
theorem TreeOk.isNode_of_follow (ht : TreeOk S) (hl : LeavesOk cap S) {i k : Nat} {c : Bits} (hi : IsNode S i)
    (h : follow S.node i c = some k) : IsNode S k := by
  induction c generalizing i with
  | nil => cases (follow_nil S.node i).symm.trans h; exact hi
  | cons b c ih =>
    have hn := hl.slot_of_isNode hi
    cases hleaf : (S.slot i).leaf with
    | true => simp [follow_leaf hn hleaf] at h
    | false =>
      rw [follow_cons hn hleaf] at h
      exact ih ((ht.child_lt hl hi hleaf b).trans hi) h

/-- The internal slots in order, each with its two children: the definition of `Session.children`, by `child`. -/
theorem Session.children_eq_child (S : Session) : S.children =
    (List.range' S.nsym.toNat (S.nsym.toNat - 1)).flatMap fun k => [S.child k false, S.child k true] := rfl

/-- A node that is no leaf stands in an internal slot (41_tree.md R140). -/
theorem LeavesOk.mem_inner (hl : LeavesOk cap S) {m : Nat} (hm : IsNode S m) (hf : (S.slot m).leaf = false) :
    m ∈ List.range' S.nsym.toNat (S.nsym.toNat - 1) := by
  have hge : S.nsym.toNat ≤ m := by
    by_contra hc
    obtain ⟨-, hleaf, -⟩ := hl.leaf m (Nat.lt_of_not_le hc)
    simp [hleaf] at hf
  have h2 := hl.nsym_ge
  exact List.mem_range'_1.mpr ⟨hge, by unfold IsNode at hm; omega⟩

/-- Every node but the root is the child of an internal node in a later slot (41_tree.md R150). -/
theorem TreeOk.exists_parent (ht : TreeOk S) (hl : LeavesOk cap S) {k : Nat} (hk : k < 2 * S.nsym.toNat - 2) :
    ∃ m b, IsNode S m ∧ (S.slot m).leaf = false ∧ k < m ∧ S.child m b = k := by
  have hmem := ht.parents.mem_iff.mpr (List.mem_range.mpr hk)
  rw [Session.children_eq_child, List.mem_flatMap] at hmem
  obtain ⟨m, hm, hkm⟩ := hmem
  obtain ⟨hge, hlt⟩ := List.mem_range'_1.mp hm
  have hnode : IsNode S m := by unfold IsNode; omega
  obtain ⟨-, hleaf, -⟩ := ht.inner m hnode hge
  have hchild : ∃ b, S.child m b = k := by
    simp only [List.mem_cons, List.not_mem_nil, or_false] at hkm
    exact hkm.elim (fun h => ⟨false, h.symm⟩) fun h => ⟨true, h.symm⟩
  obtain ⟨b, rfl⟩ := hchild
  exact ⟨m, b, hnode, hleaf, ht.child_lt hl hnode hleaf b, rfl⟩

/-- No node is a child twice (41_tree.md R150 (e)). -/
theorem TreeOk.child_inj (ht : TreeOk S) (hl : LeavesOk cap S) {m m' : Nat} {b b' : Bool} (hm : IsNode S m)
    (hf : (S.slot m).leaf = false) (hm' : IsNode S m') (hf' : (S.slot m').leaf = false)
    (h : S.child m b = S.child m' b') : m = m' ∧ b = b' := by
  have hnodup : S.children.Nodup := ht.parents.nodup_iff.mpr List.nodup_range
  rw [Session.children_eq_child, List.nodup_flatMap] at hnodup
  obtain ⟨hpair, hdisj⟩ := hnodup
  have mem : ∀ i c, S.child i c ∈ [S.child i false, S.child i true] := fun i c => by cases c <;> simp
  have hmm : m = m' := by
    by_contra hne
    have hsymm : Std.Symm (Function.onFun List.Disjoint fun k => [S.child k false, S.child k true]) :=
      ⟨fun _ _ hd => hd.symm⟩
    exact hdisj.forall (hl.mem_inner hm hf) (hl.mem_inner hm' hf') hne (mem m b) (h ▸ mem m' b')
  subst hmm
  have hne : S.child m false ≠ S.child m true := by simpa using hpair m (hl.mem_inner hm hf)
  refine ⟨rfl, ?_⟩
  cases b <;> cases b'
  · rfl
  · exact absurd h hne
  · exact absurd h.symm hne
  · rfl

/-- A path from the root of more than no bits comes from a node that is no leaf, by its last bit. -/
theorem TreeOk.parent_of_path (ht : TreeOk S) (hl : LeavesOk cap S) {c : Bits} {b : Bool} {k : Nat}
    (h : follow S.node S.root.toNat (c ++ [b]) = some k) : ∃ m, IsNode S m ∧ (S.slot m).leaf = false ∧
      follow S.node S.root.toNat c = some m ∧ S.child m b = k := by
  obtain ⟨m, nd, hm, hn, hleaf, hchild⟩ := follow_concat h
  have hnode := ht.isNode_of_follow hl (ht.root_isNode hl) hm
  rw [hl.slot_of_isNode hnode] at hn
  cases hn
  exact ⟨m, hnode, hleaf, hm, hchild⟩

/-- Every node is reached from the root by exactly one path (41_tree.md R150 (e)): the induction goes down from the
root, each node's only path being its parent's and one bit more. -/
theorem TreeOk.exists_unique_path (ht : TreeOk S) (hl : LeavesOk cap S) {k : Nat} (hk : IsNode S k) :
    ∃ c, follow S.node S.root.toNat c = some k ∧ ∀ d, follow S.node S.root.toNat d = some k → d = c := by
  have hroot := ht.root_slot
  by_cases hkr : k = S.root.toNat
  · refine ⟨[], by rw [follow_nil, hkr], fun d hd => ?_⟩
    cases d using List.reverseRecOn with
    | nil => rfl
    | append_singleton d b =>
      obtain ⟨m, hnode, hleaf, -, rfl⟩ := ht.parent_of_path hl hd
      have hlt : S.child m b < m := ht.child_lt hl hnode hleaf b
      unfold IsNode at hnode
      omega
  · obtain ⟨m, b, hnode, hleaf, hlt, hchild⟩ := ht.exists_parent hl (k := k) (by unfold IsNode at hk; omega)
    obtain ⟨c, hc, huniq⟩ := ht.exists_unique_path hl hnode
    refine ⟨c ++ [b], ?_, fun d hd => ?_⟩
    · rw [follow_append, hc, Option.bind_some, follow_cons (hl.slot_of_isNode hnode) hleaf, follow_nil]
      exact congrArg some hchild
    · cases d using List.reverseRecOn with
      | nil =>
        rw [follow_nil] at hd
        exact absurd (Option.some.inj hd).symm hkr
      | append_singleton d b' =>
        obtain ⟨m', hnode', hleaf', hd', hchild'⟩ := ht.parent_of_path hl hd
        obtain ⟨rfl, rfl⟩ := ht.child_inj hl hnode' hleaf' hnode hleaf (hchild'.trans hchild.symm)
        rw [huniq d hd']
termination_by 2 * S.nsym.toNat - 1 - k
decreasing_by unfold IsNode at hnode; omega

/-- Settles O24: the session BUILD_TREE commits is in order in phase BUILT, and in a tree each node's only path is
its parent's and one bit more. -/
theorem buildTreeShape : Obligations.BuildTreeShape := by
  intro s h hp
  obtain ⟨S, hS, he⟩ := h.exec_buildTree hp
  obtain ⟨q, rfl, hq, hf, hw⟩ := buildTree_final (h.session.leavesOk hp) hS
  have hl := (hq.final hf).1.leavesOk (h.session.leavesOk hp)
  have ht := hq.treeOk (h.session.leavesOk hp).nsym_le hf hw
  exact ⟨_, he, hl, ht, fun _ hk => ht.exists_unique_path hl hk⟩

/-! What it writes. -/

/-- The session of a finished merge differs from the one before it in its slots, root, table and phase only, the
leaves apart (41_tree.md R148). -/
theorem QueuesOk.builtSession_frame {q : MergeState} (hq : QueuesOk S q) (hf : q.finished = true) :
    builtSession S q = { S with
      node := (builtSession S q).node, root := BitVec.ofNat 8 (2 * S.nsym.toNat - 2),
      table := Vector.replicate 128 none, phase := .built } := by
  obtain ⟨-, hroot, -⟩ := hq.final hf
  rw [builtSession, hroot, noCodes]

/-- What BUILD_TREE commits for every 2 to 128 leaves, in order or not: a finished merge (41_tree.md R145). -/
theorem buildTree_queuesOk (h : buildTree S = some S') :
    ∃ q, QueuesOk S q ∧ q.finished = true ∧ S' = builtSession S q :=
  buildTree_induct queuesOk_seeded (fun hn _ _ _ _ _ hq hl hr => hq.iterate hn hl hr) h

/-- BUILD_TREE keeps the leaf slots (41_tree.md R148). -/
theorem QueuesOk.slot_leaf {q : MergeState} (hq : QueuesOk S q) {i : Nat} (hi : i < S.nsym.toNat) :
    (builtSession S q).slot i = S.slot i := by
  rw [slot_builtSession, if_pos (hi.trans_le hq.slots.next_ge), hq.slots.leaves i hi]

/-- Settles O23: what every iteration keeps of the slots holds of the merge that is committed, and a finished merge
has filled the slots up to 2n - 2. -/
theorem buildTreeCompletes : Obligations.BuildTreeCompletes := by
  intro s hp h2 hn hfit
  obtain ⟨S, hS⟩ := buildTree_some h2 hn
  obtain ⟨q, hq, hf, rfl⟩ := buildTree_queuesOk hS
  obtain ⟨hm, -, hnext⟩ := hq.final hf
  refine ⟨_, exec_buildTree_of_some hp hS hfit, ?_, fun i hi => ?_, fun k hk hk' => ?_, fun j _ hj => ?_⟩
  · exact congrArg (fun S => s.withTree S) (hq.builtSession_frame hf)
  · exact hq.slot_leaf hi
  · rw [← hnext] at hk
    rw [State.withTree_session, slot_builtSession, if_pos hk]
    obtain ⟨hvalid, hleaf, -⟩ := hm.inner k hk hk'
    exact ⟨hvalid, hleaf⟩
  · rw [State.withTree_session, slot_builtSession, if_neg (by omega)]

end Sys2Proof.Machine
end

section
/-! Which nodes each merge takes: both queues stay sorted by weight, so their heads are the lightest waiting nodes
(41_tree.md R141, R142, R143, R147). -/

namespace Sys2Proof.Machine

variable {cap : Nat} {S S' : Session} {q q' q1 q2 : MergeState} {x l r : Nat} {w : List Nat}

/-! The claim for one internal slot. -/

/-- The children of internal slot `k` were two waiting nodes, and the two that go first (41_tree.md R141, R143). -/
def MergedFirst (S : Session) (k : Nat) : Prop :=
  ∀ l r : Nat, l = (S.slot k).left.toNat → r = (S.slot k).right.toNat →
    Waiting S k l ∧ Waiting S k r ∧ l ≠ r ∧
      ∀ j, Waiting S k j → (j ≠ l → TakenBefore S l j) ∧ (j ≠ l → j ≠ r → TakenBefore S r j)

/-- Only the slots below `k` say which nodes are waiting when slot `k` is made. -/
theorem waiting_congr (hn : S'.nsym = S.nsym) {k : Nat} (hs : ∀ i < k, S'.slot i = S.slot i) (j : Nat) :
    Waiting S' k j ↔ Waiting S k j := by
  unfold Waiting
  rw [hn]
  refine and_congr_right fun _ => forall₂_congr fun m hm => ?_
  rw [hs m hm]

/-- Only the two slots say which of them goes first. -/
theorem takenBefore_congr (hn : S'.nsym = S.nsym) {i j : Nat} (hi : S'.slot i = S.slot i) (hj : S'.slot j = S.slot j) :
    TakenBefore S' i j ↔ TakenBefore S i j := by
  unfold TakenBefore
  rw [hn, hi, hj]

/-- Only the slots up to `k` matter. -/
theorem MergedFirst.congr {k : Nat} (h : MergedFirst S k) (hn : S'.nsym = S.nsym)
    (hs : ∀ i ≤ k, S'.slot i = S.slot i) : MergedFirst S' k := by
  have hw := waiting_congr hn fun i (hi : i < k) => hs i hi.le
  intro l r hl hr
  rw [hs k le_rfl] at hl hr
  obtain ⟨hwl, hwr, hne, hfirst⟩ := h l r hl hr
  refine ⟨(hw l).mpr hwl, (hw r).mpr hwr, hne, fun j hj => ?_⟩
  obtain ⟨hbl, hbr⟩ := hfirst j ((hw j).mp hj)
  have before : ∀ i < k, TakenBefore S i j → TakenBefore S' i j := fun i hi =>
    (takenBefore_congr hn (hs i hi.le) (hs j hj.1.le)).mpr
  exact ⟨fun h => before l hwl.1 (hbl h), fun h h' => before r hwr.1 (hbr h h')⟩

/-! The working copy as a session. -/

/-- The session with the slots of the working copy. -/
def workingCopy (S : Session) (q : MergeState) : Session := { S with node := q.node }

@[simp] theorem workingCopy_slot (S : Session) (q : MergeState) (i : Nat) :
    (workingCopy S q).slot i = slotAt q.node i := rfl

@[simp] theorem workingCopy_nsym (S : Session) (q : MergeState) : (workingCopy S q).nsym = S.nsym := rfl

/-- Only the slots matter. -/
theorem workingCopy_congr (S : Session) (h : q'.node = q.node) : workingCopy S q' = workingCopy S q := by
  rw [workingCopy, h, workingCopy]

/-- The children of a range of slots. -/
theorem mem_childrenFrom {N : Vector NodeSlot 255} {n m j : Nat} : j ∈ childrenFrom N n m ↔
    ∃ k < n + m, n ≤ k ∧ ((slotAt N k).left.toNat = j ∨ (slotAt N k).right.toNat = j) := by
  simp only [childrenFrom, List.mem_flatMap, List.mem_range'_1, List.mem_cons, List.not_mem_nil, or_false]
  refine exists_congr fun k => ?_
  rw [and_comm (a := n ≤ k), and_assoc, eq_comm (a := j), eq_comm (a := j)]

/-- No node is waiting twice, and none is both waiting and a child. -/
theorem MergeOk.nodup (h : MergeOk S q w) :
    (childrenFrom q.node S.nsym.toNat (q.next - S.nsym.toNat) ++ w).Nodup := h.nodes.nodup_iff.mpr List.nodup_range

/-- The nodes in the queues are the waiting ones: those made so far that are no child yet (41_tree.md R141). -/
theorem MergeOk.mem_iff_waiting (h : MergeOk S q w) (j : Nat) :
    j ∈ w ↔ Waiting (workingCopy S q) q.next j := by
  have hge := h.next_ge
  have child : j ∈ childrenFrom q.node S.nsym.toNat (q.next - S.nsym.toNat) ↔ ¬ ∀ m < q.next, S.nsym.toNat ≤ m →
      (slotAt q.node m).left.toNat ≠ j ∧ (slotAt q.node m).right.toNat ≠ j := by
    rw [mem_childrenFrom, Nat.add_sub_cancel' hge]
    push Not
    exact exists_congr fun m => by tauto
  have made : (j ∈ childrenFrom q.node S.nsym.toNat (q.next - S.nsym.toNat) ∨ j ∈ w) ↔ j < q.next := by
    rw [← List.mem_append, h.nodes.mem_iff, List.mem_range]
  have apart := fun hc hw => (List.disjoint_of_nodup_append h.nodup) hc hw (a := j)
  unfold Waiting
  rw [← made]
  simp only [workingCopy_slot, workingCopy_nsym]
  tauto

/-! The queues are sorted. -/

/-- Node `i` stands before node `j` of its queue: it entered it earlier and weighs no more. -/
abbrev QueuedBefore (q : MergeState) (i j : Nat) : Prop := i < j ∧ (q.weight i).toNat ≤ (q.weight j).toNat

/-- Each queue holds its kind of node in the order of the slots and by weight, and no node of target weighs more than
twice a waiting node, so that the next merge of two goes behind it (41_tree.md R141, R147). -/
structure QueuesSorted (S : Session) (q : MergeState) : Prop where
  source_lt : ∀ i ∈ q.source, i < S.nsym.toNat
  target_ge : ∀ i ∈ q.target, S.nsym.toNat ≤ i
  source_sorted : q.source.Pairwise (QueuedBefore q)
  target_sorted : q.target.Pairwise (QueuedBefore q)
  balanced : ∀ t ∈ q.target, ∀ j ∈ q.source ++ q.target, (q.weight t).toNat ≤ 2 * (q.weight j).toNat

/-- The sorted leaves are a sorted source queue (40_analyze.md R122, 41_tree.md R141). -/
theorem queuesSorted_start (h : LeavesOk cap S) : QueuesSorted S (mergeStart S) where
  source_lt := fun _ hi => List.mem_range.mp hi
  target_ge := nofun
  source_sorted := by
    refine List.pairwise_lt_range.imp_of_mem fun {i j} _ hj hij => ⟨hij, ?_⟩
    obtain hlt | ⟨heq, -⟩ := h.ordered j (List.mem_range.mp hj) i hij
    · exact hlt.le
    · exact (congrArg BitVec.toNat heq).le
  target_sorted := .nil
  balanced := nofun

/-- The head of a sorted queue is its lightest node. -/
theorem exists_head_le {queue : List Nat} {j : Nat} (h : queue.Pairwise (QueuedBefore q)) (hj : j ∈ queue) :
    ∃ y ∈ queue.head?, (q.weight y).toNat ≤ (q.weight j).toNat := by
  cases queue with
  | nil => cases hj
  | cons y rest =>
    refine ⟨y, rfl, ?_⟩
    obtain rfl | hj := List.mem_cons.mp hj
    · exact le_rfl
    · exact (List.rel_of_pairwise_cons h hj).2

/-- `take()` answers the node that goes before all that stay: before its own queue's by the order of the queue, and
before the other queue's because it goes before the head (41_tree.md R143). -/
theorem QueuesSorted.takenBefore (h : QueuesSorted S q) (ht : q.take = some (x, q')) {j : Nat}
    (hj : j ∈ q'.source ++ q'.target) : TakenBefore (workingCopy S q) x j := by
  obtain ⟨hsl, htg, hss, hts, -⟩ := h
  obtain ⟨hs, hq, hhead⟩ | ⟨ht, hq, hhead⟩ := MergeState.take_cases ht
  · have hx := hsl x (by simp [hs])
    have htarget : q'.target = q.target := by rw [hq]
    rw [htarget] at hj
    obtain hj | hj := List.mem_append.mp hj
    · obtain ⟨hlt, hle⟩ := List.rel_of_pairwise_cons (hs ▸ hss) hj
      exact ⟨hle, fun hge => absurd hx hge.not_gt, fun _ => hlt⟩
    · obtain ⟨y, hy, hle⟩ := exists_head_le hts hj
      exact ⟨(hhead y hy).trans hle, fun hge => absurd hx hge.not_gt, fun hiff => absurd (hiff.mp hx) (htg j hj).not_gt⟩
  · have hx := htg x (by simp [ht])
    have hsource : q'.source = q.source := by rw [hq]
    rw [hsource] at hj
    obtain hj | hj := List.mem_append.mp hj
    · obtain ⟨y, hy, hle⟩ := exists_head_le hss hj
      have hlt := (hhead y hy).trans_le hle
      exact ⟨hlt.le, fun _ _ => hlt, fun hiff => absurd (hiff.mpr (hsl j hj)) hx.not_gt⟩
    · obtain ⟨hlt, hle⟩ := List.rel_of_pairwise_cons (ht ▸ hts) hj
      exact ⟨hle, fun _ hjn => absurd hjn (htg j (by simp [ht, hj])).not_gt, fun _ => hlt⟩

/-- `take()` takes a head away from one queue and keeps the order of both. -/
theorem MergeState.take_sublist (h : q.take = some (x, q')) :
    q'.source.Sublist q.source ∧ q'.target.Sublist q.target := by
  obtain ⟨hs, hq, -⟩ | ⟨ht, hq, -⟩ := MergeState.take_cases h
  · rw [hs, hq]
    exact ⟨List.sublist_cons_self _ _, .refl _⟩
  · rw [ht, hq]
    exact ⟨.refl _, List.sublist_cons_self _ _⟩

/-- `take()` leaves the queues sorted. -/
theorem QueuesSorted.take (h : QueuesSorted S q) (ht : q.take = some (x, q')) : QueuesSorted S q' := by
  obtain ⟨hsource, htarget⟩ := MergeState.take_sublist ht
  obtain ⟨hnode, -, -⟩ := MergeState.take_perm ht
  have hw : q'.weight = q.weight := by funext i; rw [MergeState.weight, hnode]; rfl
  have hbefore : QueuedBefore q' = QueuedBefore q := by funext i j; rw [QueuedBefore, hw]
  constructor
  case source_lt => exact fun i hi => h.source_lt i (hsource.subset hi)
  case target_ge => exact fun i hi => h.target_ge i (htarget.subset hi)
  case source_sorted => rw [hbefore]; exact h.source_sorted.sublist hsource
  case target_sorted => rw [hbefore]; exact h.target_sorted.sublist htarget
  case balanced =>
    intro t ht j hj
    rw [hw]
    exact h.balanced t (htarget.subset ht) j ((hsource.append htarget).subset hj)

/-- `merge` leaves the weights of the nodes made so far. -/
theorem weight_merge_of_lt (l r : Nat) {i : Nat} (hi : i < q.next) : (q.merge l r).weight i = q.weight i := by
  rw [MergeState.weight, slotAt_merge_of_lt q l r hi]; rfl

/-- The new node weighs what its two children weigh together (41_tree.md R144; 40_analyze.md R128). -/
theorem WeightsOk.weight_merge_next (h : WeightsOk S q (l :: r :: w)) (hq : q.next < 255) :
    ((q.merge l r).weight q.next).toNat = (q.weight l).toNat + (q.weight r).toNat := by
  rw [MergeState.weight, slotAt_merge_next l r hq, ← h.add_exact]; rfl

/-- The merge of two nodes goes behind a target queue none of whose nodes outweighs it, and the queues stay balanced
where none that stays is lighter than the second of the two (41_tree.md R144). -/
theorem QueuesSorted.merge (hn : S.nsym.toNat ≤ 128) (hm : MergeOk S q (l :: r :: (q.source ++ q.target)))
    (hw : WeightsOk S q (l :: r :: (q.source ++ q.target))) (h : QueuesSorted S q)
    (hlr : (q.weight l).toNat ≤ (q.weight r).toNat)
    (hstay : ∀ j ∈ q.source ++ q.target, (q.weight r).toNat ≤ (q.weight j).toNat)
    (htarget : ∀ t ∈ q.target, (q.weight t).toNat ≤ (q.weight l).toNat + (q.weight r).toNat) :
    QueuesSorted S (q.merge l r) := by
  have new := hw.weight_merge_next (hm.next_lt hn)
  have lt : ∀ j ∈ q.source ++ q.target, j < q.next := fun j hj => hm.waiting_lt (by simp_all)
  have old : ∀ j ∈ q.source ++ q.target, (q.merge l r).weight j = q.weight j := fun j hj =>
    weight_merge_of_lt l r (lt j hj)
  have sorted : ∀ queue : List Nat, queue ⊆ q.source ++ q.target → queue.Pairwise (QueuedBefore q) →
      queue.Pairwise (QueuedBefore (q.merge l r)) := fun queue hsub hq =>
    hq.imp_of_mem fun {i j} hi hj hij => by
      rw [QueuedBefore, old i (hsub hi), old j (hsub hj)]
      exact hij
  constructor
  case source_lt => exact h.source_lt
  case target_ge =>
    intro i hi
    obtain hi | rfl := by simpa using hi
    · exact h.target_ge i hi
    · exact hm.next_ge
  case source_sorted => exact sorted _ (List.subset_append_left _ _) h.source_sorted
  case target_sorted =>
    rw [MergeState.merge_target, List.pairwise_append]
    refine ⟨sorted _ (List.subset_append_right _ _) h.target_sorted, List.pairwise_singleton _ _, fun t ht i hi => ?_⟩
    obtain rfl := List.mem_singleton.mp hi
    have hmem : t ∈ q.source ++ q.target := List.mem_append_right _ ht
    refine ⟨lt t hmem, ?_⟩
    rw [old t hmem, new]
    exact htarget t ht
  case balanced =>
    intro t ht j hj
    rw [MergeState.merge_source, MergeState.merge_target, ← List.append_assoc] at hj
    obtain ht | ht := List.mem_append.mp ht <;> obtain hj | hj := List.mem_append.mp hj
    · rw [old t (List.mem_append_right _ ht), old j hj]
      exact h.balanced t ht j hj
    · rw [List.mem_singleton.mp hj, old t (List.mem_append_right _ ht), new]
      have hle := htarget t ht
      omega
    · rw [List.mem_singleton.mp ht, old j hj, new]
      have hle := hstay j hj
      omega
    · rw [List.mem_singleton.mp ht, List.mem_singleton.mp hj]
      omega

/-! The loop. -/

/-- The merge of the two nodes that go first makes the claim for the slot it fills. -/
theorem MergeOk.mergedFirst (hn : S.nsym.toNat ≤ 128) (hm : MergeOk S q (l :: r :: w))
    (hl : ∀ j ∈ r :: w, TakenBefore (workingCopy S q) l j) (hr : ∀ j ∈ w, TakenBefore (workingCopy S q) r j) :
    MergedFirst (workingCopy S (q.merge l r)) q.next := by
  have hx := hm.next_lt hn
  have hlt : ∀ j ∈ l :: r :: w, j < q.next := fun j hj => hm.waiting_lt hj
  have old : ∀ i < q.next, (workingCopy S (q.merge l r)).slot i = (workingCopy S q).slot i := fun i hi =>
    slotAt_merge_of_lt q l r hi
  have same : (workingCopy S (q.merge l r)).nsym = (workingCopy S q).nsym := rfl
  have hw : ∀ j, Waiting (workingCopy S (q.merge l r)) q.next j ↔ j ∈ l :: r :: w := fun j =>
    (waiting_congr same old j).trans (hm.mem_iff_waiting j).symm
  have before : ∀ i ∈ l :: r :: w, ∀ j ∈ l :: r :: w, TakenBefore (workingCopy S q) i j →
      TakenBefore (workingCopy S (q.merge l r)) i j := fun i hi j hj =>
    (takenBefore_congr same (old i (hlt i hi)) (old j (hlt j hj))).mpr
  have hll : l < q.next := hlt l (by simp)
  have hrl : r < q.next := hlt r (by simp)
  have hne : l ≠ r := fun he => by
    have hnodup := hm.nodup.of_append_right
    simp [he] at hnodup
  intro l' r' hl' hr'
  obtain rfl : l' = l := by
    rw [hl', workingCopy_slot, slotAt_merge_next l r hx]
    simp only [internalSlot, BitVec.toNat_ofNat]
    omega
  obtain rfl : r' = r := by
    rw [hr', workingCopy_slot, slotAt_merge_next _ r hx]
    simp only [internalSlot, BitVec.toNat_ofNat]
    omega
  refine ⟨(hw _).mpr (by simp), (hw _).mpr (by simp), hne, fun j hj => ?_⟩
  have hj := (hw j).mp hj
  refine ⟨fun h => before _ (by simp) j hj (hl j ?_), fun h h' => before _ (by simp) j hj (hr j ?_)⟩
  · exact List.mem_of_ne_of_mem h hj
  · exact List.mem_of_ne_of_mem h' (List.mem_of_ne_of_mem h hj)

/-- The merge invariant with the order of the queues, and the claim for each internal slot made so far. -/
structure MergeOrder (S : Session) (q : MergeState) : Prop where
  slots : MergeOk S q (q.source ++ q.target)
  weights : WeightsOk S q (q.source ++ q.target)
  sorted : QueuesSorted S q
  merged : ∀ k < q.next, S.nsym.toNat ≤ k → MergedFirst (workingCopy S q) k

/-- Before the seed step there is no internal slot (41_tree.md R141). -/
theorem mergeOrder_start (h : LeavesOk cap S) : MergeOrder S (mergeStart S) where
  slots := by simpa [mergeStart] using mergeOk_start S
  weights := by simpa [mergeStart] using weightsOk_start h
  sorted := queuesSorted_start h
  merged := fun _ hk hk' => absurd hk (Nat.not_lt.mpr hk')

/-- An iteration keeps the order. -/
theorem MergeOrder.iterate (hn : S.nsym.toNat ≤ 128) (h : MergeOrder S q) (h1 : q.take = some (l, q1))
    (h2 : q1.take = some (r, q2)) : MergeOrder S (q2.merge l r) := by
  obtain ⟨hnode, hnext, hp⟩ := MergeState.take_take_perm h1 h2
  obtain ⟨hnode1, -, -⟩ := MergeState.take_perm h1
  obtain ⟨-, -, hp2⟩ := MergeState.take_perm h2
  have hm := (h.slots.perm hp).congr hnode hnext
  have hw := (h.weights.perm hp).congr hnode hnext
  have hl : ∀ j ∈ r :: (q2.source ++ q2.target), TakenBefore (workingCopy S q2) l j := fun j hj => by
    rw [workingCopy_congr S hnode]
    exact h.sorted.takenBefore h1 (hp2.mem_iff.mpr hj)
  have hr : ∀ j ∈ q2.source ++ q2.target, TakenBefore (workingCopy S q2) r j := fun j hj => by
    rw [workingCopy_congr S (hnode.trans hnode1.symm)]
    exact (h.sorted.take h1).takenBefore h2 hj
  have htarget : ∀ t ∈ q2.target, (q2.weight t).toNat ≤ (q2.weight l).toNat + (q2.weight r).toNat := fun t ht => by
    have hmem := (MergeState.take_sublist h1).2.subset ((MergeState.take_sublist h2).2.subset ht)
    have hbl := h.sorted.balanced t hmem l (hp.mem_iff.mpr (by simp))
    have hbr := h.sorted.balanced t hmem r (hp.mem_iff.mpr (by simp))
    simp only [MergeState.weight, hnode] at hbl hbr ⊢
    omega
  constructor
  case slots => simpa using hm.merge hn
  case weights => simpa using WeightsOk.merge hn hm hw
  case sorted =>
    obtain ⟨hlr, -⟩ := hl r (by simp)
    exact ((h.sorted.take h1).take h2).merge hn hm hw hlr (fun j hj => (hr j hj).1) htarget
  case merged =>
    intro k hk hk'
    obtain hlt | rfl := Nat.lt_succ_iff_lt_or_eq.mp hk
    · refine (h.merged k (hnext ▸ hlt) hk').congr rfl fun i hi => ?_
      rw [workingCopy_slot, workingCopy_slot, slotAt_merge_of_lt q2 l r (hi.trans_lt hlt), hnode]
    · exact hm.mergedFirst hn hl hr

/-- With target empty `take()` answers the head of source (41_tree.md R143). -/
theorem MergeState.take_of_target_nil (ht : q.target = []) (hs : q.source = x :: w) :
    q.take = some (x, { q with source := w }) := by
  simp only [MergeState.take, ht, hs]

/-- The seed step is an iteration: with target empty both nodes come from source (41_tree.md R142, R143). -/
theorem mergeOrder_seeded (h : LeavesOk cap S) : MergeOrder S (seeded S) := by
  have hs : (mergeStart S).source = 0 :: 1 :: List.range' 2 (S.nsym.toNat - 2) := range_eq_two_cons h.nsym_ge
  exact (mergeOrder_start h).iterate h.nsym_le (MergeState.take_of_target_nil rfl hs)
    (MergeState.take_of_target_nil rfl rfl)

/-- Settles O25: every iteration takes the two nodes that go first, by the order of the queues, and later merges write
later slots only. -/
theorem mergesTakeLightest : Obligations.MergesTakeLightest := by
  intro s t h hp he
  have hl := h.session.leavesOk hp
  obtain ⟨S', hS, he'⟩ := h.exec_buildTree hp
  obtain ⟨q, ⟨hq, ho⟩, hf, rfl⟩ :=
    buildTree_induct (P := fun q => QueuesOk s.session q ∧ MergeOrder s.session q)
      (fun h2 hn => ⟨queuesOk_seeded h2 hn, mergeOrder_seeded hl⟩)
      (fun hn _ _ _ _ _ hP h1 h2 => ⟨hP.1.iterate hn h1 h2, hP.2.iterate hn h1 h2⟩) hS
  obtain ⟨-, -, hnext⟩ := hq.final hf
  cases he'.symm.trans he
  intro k hk hk'
  rw [State.withTree_session, builtSession_nsym] at hk hk'
  rw [← hnext] at hk
  refine (ho.merged k hk hk').congr (builtSession_nsym _ _) fun i hi => ?_
  rw [State.withTree_session, slot_builtSession, if_pos (hi.trans_lt hk), workingCopy_slot]

end Sys2Proof.Machine
end

section
/-! The tree is a function of the leaf slots: the merge reads no slot it has not written but the leaves
(41_tree.md R148). -/

namespace Sys2Proof.Machine

variable {S S' T T' : Session} {q q' q1 q2 : MergeState} {l r x : Nat}

/-! The working copy without the slots not yet made. -/

/-- The merge state with the slots from the next free one on made invalid, as the commit makes them. -/
def MergeState.trim (q : MergeState) : MergeState := { q with node := clearFrom q.next q.node }

/-! The other fields of the trimmed state (by rewriting: `rfl` would compare the whole node arrays). -/

@[simp] theorem MergeState.trim_next (q : MergeState) : q.trim.next = q.next := by rw [MergeState.trim]

@[simp] theorem MergeState.trim_source (q : MergeState) : q.trim.source = q.source := by rw [MergeState.trim]

@[simp] theorem MergeState.trim_target (q : MergeState) : q.trim.target = q.target := by rw [MergeState.trim]

@[simp] theorem MergeState.trim_root (q : MergeState) : q.trim.root = q.root := by rw [MergeState.trim]

@[simp] theorem MergeState.trim_finished (q : MergeState) : q.trim.finished = q.finished := by
  simp [MergeState.finished]

/-- A slot of the trimmed working copy. -/
theorem slotAt_trim (q : MergeState) (i : Nat) :
    slotAt q.trim.node i = if i < q.next then slotAt q.node i else NodeSlot.empty := slotAt_clearFrom q.node q.next i

/-- Trimming keeps the weights of the nodes made so far. -/
theorem weight_trim {i : Nat} (hi : i < q.next) : q.trim.weight i = q.weight i := by
  rw [MergeState.weight, slotAt_trim, if_pos hi]; rfl

/-- Two node arrays with the same slots are the same. -/
theorem node_ext {N N' : Vector NodeSlot 255} (h : ∀ i, slotAt N i = slotAt N' i) : N = N' := by
  refine Vector.ext fun i hi => ?_
  simpa [slotAt, hi] using h i

/-- Every node in the queues has been made. -/
def MergeState.Made (q : MergeState) : Prop := ∀ i ∈ q.source ++ q.target, i < q.next

/-- `take()` keeps every node in the queues made, and answers one that is. -/
theorem MergeState.Made.take (h : q.Made) (ht : q.take = some (x, q')) : x < q'.next ∧ q'.Made := by
  obtain ⟨-, hnext, hp⟩ := MergeState.take_perm ht
  have hall : ∀ i ∈ x :: (q'.source ++ q'.target), i < q'.next := fun i hi => hnext ▸ h i (hp.mem_iff.mpr hi)
  exact ⟨hall x List.mem_cons_self, fun i hi => hall i (List.mem_cons_of_mem x hi)⟩

/-- `merge` keeps every node in the queues made. -/
theorem MergeState.Made.merge (h : q.Made) (l r : Nat) : (q.merge l r).Made := by
  intro i hi
  rw [MergeState.merge_source, MergeState.merge_target, ← List.append_assoc] at hi
  rw [MergeState.merge_next]
  obtain hi | hi := List.mem_append.mp hi
  · exact (h i hi).trans (Nat.lt_succ_self _)
  · rw [List.mem_singleton.mp hi]; exact Nat.lt_succ_self _

/-- `take()` does not read the slots not yet made. -/
theorem MergeState.Made.take_trim (h : q.Made) : q.trim.take = q.take.map fun p => (p.1, p.2.trim) := by
  unfold MergeState.take
  simp only [MergeState.trim_source, MergeState.trim_target]
  cases ht : q.target with
  | nil => cases hs : q.source <;> rfl
  | cons t target =>
    cases hs : q.source with
    | nil => rfl
    | cons y source =>
      simp only [weight_trim (h y (by simp [hs])), weight_trim (h t (by simp [ht]))]
      split <;> rfl

/-- `merge` of two nodes made does not read the slots not yet made, and writes the next one. -/
theorem merge_trim (hl : l < q.next) (hr : r < q.next) : q.trim.merge l r = (q.merge l r).trim := by
  have hnode : (q.trim.merge l r).node = clearFrom (q.next + 1) (q.merge l r).node := node_ext fun i => by
    rw [slotAt_merge, slotAt_trim, slotAt_clearFrom, slotAt_merge, weight_trim hl, weight_trim hr, q.trim_next]
    obtain hi | rfl | hi := Nat.lt_trichotomy i q.next
    · rw [if_neg (by omega), if_pos hi, if_pos (by omega), if_neg (by omega)]
    · by_cases hn : q.next < 255
      · simp [hn]
      · simp [hn, slotAt_of_ge q.node (Nat.not_lt.mp hn)]
    · rw [if_neg (by omega), if_neg (by omega), if_neg (by omega)]
  rw [MergeState.trim.eq_def (q.merge l r), MergeState.merge_next, ← hnode]
  simp [MergeState.merge]

/-- The loop does not read the slots not yet made. -/
theorem MergeState.Made.mergeLoop_trim (h : q.Made) (fuel : Nat) :
    mergeLoop fuel q.trim = (mergeLoop fuel q).map MergeState.trim := by
  induction fuel generalizing q with
  | zero => simp only [mergeLoop, MergeState.trim_finished]; split <;> rfl
  | succ fuel ih =>
    simp only [mergeLoop, MergeState.trim_finished, h.take_trim]
    split
    · rfl
    · cases h1 : q.take with
      | none => rfl
      | some p1 =>
        obtain ⟨l, q1⟩ := p1
        obtain ⟨hl, hq1⟩ := h.take h1
        simp only [Option.map_some, hq1.take_trim]
        cases h2 : q1.take with
        | none => rfl
        | some p2 =>
          obtain ⟨r, q2⟩ := p2
          obtain ⟨hr, hq2⟩ := hq1.take h2
          have hnext : q2.next = q1.next := (MergeState.take_perm h2).2.1
          simp only [Option.map_some, merge_trim (hnext ▸ hl) hr]
          exact ih (hq2.merge l r)

/-! The whole command. -/

/-- The state after the seed step is a matter of the leaves, once trimmed (41_tree.md R142). -/
theorem seeded_trim_congr (hn : S'.nsym = S.nsym) (h2 : 2 ≤ S.nsym.toNat)
    (hs : ∀ i < S.nsym.toNat, S'.slot i = S.slot i) : (seeded S').trim = (seeded S).trim := by
  have hnode : clearFrom S.nsym.toNat S'.node = clearFrom S.nsym.toNat S.node := node_ext fun i => by
    rw [slotAt_clearFrom, slotAt_clearFrom]
    split
    · rename_i hi; exact hs i hi
    · rfl
  have start : ∀ source, ({ mergeStart S' with source := source } : MergeState).trim =
      ({ mergeStart S with source := source } : MergeState).trim := fun source => by
    simp only [MergeState.trim, mergeStart, hn, hnode]
  have h0 : 0 < S.nsym.toNat := by omega
  have h1 : 1 < S.nsym.toNat := h2
  rw [seeded, seeded, hn, ← merge_trim (by simpa [mergeStart, hn] using h0) (by simpa [mergeStart, hn] using h1), start,
    merge_trim (by simpa [mergeStart] using h0) (by simpa [mergeStart] using h1)]

/-- BUILD_TREE commits the end of the loop from the seeded state (41_tree.md R140). -/
theorem buildTree_eq_some (h : buildTree S = some T) : 2 ≤ S.nsym.toNat ∧ S.nsym.toNat ≤ 128 ∧
    ∃ q, mergeLoop S.nsym.toNat (seeded S) = some q ∧ T = builtSession S q := by
  unfold buildTree at h
  split at h
  · rename_i hn
    obtain ⟨h2, h128⟩ := hn
    rw [seedStep_eq h2] at h
    cases hq : mergeLoop S.nsym.toNat (seeded S) with
    | none => simp [hq] at h
    | some q => exact ⟨h2, h128, q, rfl, by simpa [hq] using h.symm⟩
  · cases h

/-- BUILD_TREE leaves phase BUILT (41_tree.md R140, commit). -/
theorem buildTree_phase (h : buildTree S = some T) : T.phase = .built := by
  obtain ⟨-, -, q, -, rfl⟩ := buildTree_eq_some h
  exact builtSession_phase S q

/-- The slots and the root BUILD_TREE commits are those of the loop run on the trimmed seed. -/
theorem buildTree_trim (h : buildTree S = some T) :
    ∃ q : MergeState, mergeLoop S.nsym.toNat (seeded S).trim = some q ∧ T.node = q.node ∧
      T.root = BitVec.ofNat 8 q.root := by
  obtain ⟨h2, hn, q, hq, rfl⟩ := buildTree_eq_some h
  have made : (seeded S).Made := fun _ hi => (mergeOk_seeded h2 hn).waiting_lt hi
  refine ⟨q.trim, by rw [made.mergeLoop_trim, hq, Option.map_some], ?_, ?_⟩
  · rw [builtSession, MergeState.trim]
  · rw [builtSession_root, MergeState.trim_root]

/-- The tree is a function of the leaf slots (41_tree.md R148). -/
theorem buildTree_congr (hn : S'.nsym = S.nsym) (hs : ∀ i < S.nsym.toNat, S'.slot i = S.slot i)
    (h : buildTree S = some T) (h' : buildTree S' = some T') : T'.node = T.node ∧ T'.root = T.root := by
  obtain ⟨h2, -⟩ := buildTree_eq_some h
  obtain ⟨q, hq, hnode, hroot⟩ := buildTree_trim h
  obtain ⟨q', hq', hnode', hroot'⟩ := buildTree_trim h'
  rw [seeded_trim_congr hn h2 hs, hn, hq] at hq'
  cases hq'
  exact ⟨hnode'.trans hnode.symm, hroot'.trans hroot.symm⟩

/-- A commit that writes the slots and the root the session has, over no codes and in phase BUILT, changes nothing. -/
theorem builtSession_eq_self (hnode : (builtSession S q).node = S.node) (hroot : (builtSession S q).root = S.root)
    (htable : S.table = noCodes) (hphase : S.phase = .built) : builtSession S q = S := by
  obtain ⟨count, total, nsym, node, root, table, phase⟩ := S
  simp only [builtSession] at hnode hroot htable hphase ⊢
  rw [hnode, hroot, htable, hphase]

/-- BUILD_TREE on the tree it has committed commits it again (41_tree.md R148). -/
theorem buildTree_idempotent (h : buildTree S = some T) : buildTree T = some T := by
  obtain ⟨h2, hn, -⟩ := buildTree_eq_some h
  obtain ⟨q, hq, -, rfl⟩ := buildTree_queuesOk h
  obtain ⟨T, hT⟩ := buildTree_some (S := builtSession S q) (by simpa using h2) (by simpa using hn)
  obtain ⟨hnode, hroot⟩ := buildTree_congr (builtSession_nsym S q) (fun _ hi => hq.slot_leaf hi) h hT
  obtain ⟨-, -, q', -, rfl⟩ := buildTree_eq_some hT
  rw [hT, builtSession_eq_self hnode hroot (builtSession_table S q) (builtSession_phase S q)]

/-- Settles O26: the merge reads the leaf slots only, and the commit keeps them. -/
theorem treeDependsOnLeavesOnly : Obligations.TreeDependsOnLeavesOnly := by
  refine ⟨fun s s' t t' hn hs he herr he' herr' => ?_, fun s t he herr => ?_⟩
  · obtain ⟨-, -, S, hS, rfl⟩ := exec_buildTree_some he herr
    obtain ⟨-, -, S', hS', rfl⟩ := exec_buildTree_some he' herr'
    exact buildTree_congr hn hs hS hS'
  · obtain ⟨-, hfit, S, hS, rfl⟩ := exec_buildTree_some he herr
    exact exec_buildTree_of_some (s := s.withTree S) (by simp [buildTree_phase hS]) (buildTree_idempotent hS) hfit

end Sys2Proof.Machine
end

section
/-! Only ANALYZE, BUILD_TREE, CLEAR and reset write the tree (41_tree.md R149). -/

namespace Sys2Proof.Machine

variable {s s' t : State}

/-- Two sessions hold the same slots and the same root. -/
abbrev SameTree (S S' : Session) : Prop := S'.node = S.node ∧ S'.root = S.root

/-- The commands that write the tree (41_tree.md R149). -/
abbrev WritesTree (i : Instr) : Prop := i = .analyze ∨ i = .buildTree ∨ i = .clear

/-- The bodies of the other commands leave the tree; GEN_TABLE writes the table and the phase only. -/
theorem bodyOf_done_sameTree {i : Instr} {out : List Byte} (hi : ¬ WritesTree i) (h : bodyOf i s = .done s' out) :
    SameTree s.session s'.session := by
  cases i <;> simp only [bodyOf] at h
  case nop => cases h; exact ⟨rfl, rfl⟩
  case clear => exact absurd (.inr (.inr rfl)) hi
  case analyze => exact absurd (.inl rfl) hi
  case buildTree => exact absurd (.inr (.inl rfl)) hi
  case genTable => unfold genTableBody at h; split at h <;> cases h; exact ⟨rfl, rfl⟩
  case encode =>
    unfold encodeBody packResult at h
    split at h
    · cases h
    · split at h <;> cases h; exact ⟨rfl, rfl⟩
  case pack => unfold packBody packResult at h; split at h <;> cases h; exact ⟨rfl, rfl⟩
  case unpack => unfold unpackBody at h; split at h <;> cases h; exact ⟨rfl, rfl⟩
  case decode =>
    unfold decodeBody at h
    split at h
    · cases h
    · split at h <;> cases h; exact ⟨rfl, rfl⟩

/-- A command that changes the tree is one of the three that write it: an error keeps the session. -/
theorem exec_sameTree {i : Instr} (hi : ¬ WritesTree i) (he : exec i s = .next t) : SameTree s.session t.session := by
  have failed : ∀ code info, SameTree s.session (s.fail i code info).session := fun code info => by
    rw [State.fail_session]; exact ⟨rfl, rfl⟩
  rw [exec_eq] at he
  obtain ⟨-, -, rfl⟩ | ⟨-, ⟨-, rfl⟩ | ⟨-, ⟨code, info, -, rfl⟩ | ⟨s', out, hb, ⟨-, rfl⟩ | ⟨-, rfl⟩⟩⟩⟩ :=
    runCommand_cases he
  · exact failed _ _
  · exact failed _ _
  · exact failed _ _
  · exact failed _ _
  · rw [State.commit_session]
    exact bodyOf_done_sameTree hi hb

/-- A turn of the core that changes the tree runs one of the three commands (41_tree.md R149). -/
theorem coreTurn_writesTree (ht : coreTurn s = .next t) (hne : ¬ SameTree s.session t.session) :
    s.busy = true ∧
      (decode s.pending = .ok .analyze ∨ decode s.pending = .ok .buildTree ∨ decode s.pending = .ok .clear) := by
  obtain ⟨-, rfl⟩ | ⟨hb, i, hd, he⟩ | ⟨-, -, rfl⟩ := coreTurn_cases ht
  · exact absurd ⟨rfl, rfl⟩ hne
  · rw [hd]
    have hi : WritesTree i := by_contra fun hi => hne (exec_sameTree hi he)
    exact ⟨hb, hi.imp (congrArg _) (.imp (congrArg _) (congrArg _))⟩
  · exact absurd ⟨rfl, rfl⟩ hne

/-- A host read leaves the session. -/
@[simp] theorem hostRead_session (addr : Nat) (s : State) : (hostRead addr s).session = s.session := by
  have read : ∀ off, (busRead off s).2.session = s.session := fun off => by
    obtain he | he | ⟨-, he | he⟩ := busRead_state_cases off s <;> rw [he] <;> rfl
  unfold hostRead
  cases offsetOf s.params addr with
  | none => rfl
  | some off => exact read off

/-- A register write leaves the session. -/
theorem writeRegister_session (r : Register) (v : Word) (s : State) : (writeRegister r v s).session = s.session := by
  obtain he | he | he | he | he | he := writeRegister_cases r v s <;> rw [he]
  · rfl
  · rfl
  · rfl
  · obtain ⟨-, he⟩ | ⟨-, he⟩ := State.writeCmd_cases v s <;> rw [he]; rfl
  · obtain ⟨-, he⟩ | ⟨-, -, he⟩ | ⟨-, -, he⟩ := State.writeDataIn_cases v s <;> rw [he]; rfl

/-- A host write leaves the session. -/
@[simp] theorem hostWrite_session (addr : Nat) (v : Word) (s : State) : (hostWrite addr v s).session = s.session := by
  unfold hostWrite busWrite
  split
  · rfl
  · split
    · rfl
    · exact writeRegister_session _ v s

/-- Settles O56: of the events only a turn of the core and a reset touch the session, and a turn that changes the tree
runs one of the three commands. -/
theorem treeWrittenOnlyBy : Obligations.TreeWrittenOnlyBy := by
  intro s t ht hch
  have hne : ¬ SameTree s.session t.session := fun ⟨hn, hr⟩ => hch.elim (absurd hn) (absurd hr)
  obtain ⟨hs, hc⟩ | ⟨rest, ⟨hs, hc⟩ | ⟨hs, -⟩ | ⟨addr, -, rfl⟩ | ⟨addr, v, -, rfl⟩⟩ := step_cases ht
  · obtain ⟨hb, hi⟩ := coreTurn_writesTree hc hne
    exact .inr ⟨hb, .inl hs, hi⟩
  · obtain ⟨hb, hi⟩ := coreTurn_writesTree (s := { s with schedule := rest }) hc hne
    exact .inr ⟨hb, .inr ⟨rest, hs⟩, hi⟩
  · exact .inl ⟨rest, hs⟩
  · exact absurd (by rw [hostRead_session]; exact ⟨rfl, rfl⟩) hne
  · exact absurd (by rw [hostWrite_session]; exact ⟨rfl, rfl⟩) hne

end Sys2Proof.Machine
end

section
/-! GEN_TABLE: the table it writes holds exactly the paths from the root to the leaves (42_table.md R160 to R164). -/

namespace Sys2Proof.Machine

variable {N : Vector NodeSlot 255} {fuel i : Nat} {nd : NodeSlot} {sym : Symbol} {c d p : Bits}
  {ps : List (Symbol × Bits)} {s : State} {cap : Nat} {S : Session}

/-! Paths to leaves. -/

/-- The path `d` leads from slot `i` to a leaf that holds `sym` (42_table.md R161); `IsPathOf` for any start. -/
def LeafAt (N : Vector NodeSlot 255) (i : Nat) (d : Bits) (sym : Symbol) : Prop :=
  ∃ k, follow N i d = some k ∧ (slotAt N k).leaf = true ∧ (slotAt N k).sym = sym

/-- `IsPathOf` is `LeafAt` from the root. -/
theorem isPathOf_iff_leafAt : IsPathOf S c sym ↔ LeafAt S.node S.root.toNat c sym := Iff.rfl

/-- The slot an index names. -/
theorem slotAt_of_getElem? (hn : N[i]? = some nd) : slotAt N i = nd := by simp [slotAt, hn]

/-- From a leaf only the empty path leads to a leaf, itself (42_table.md R161). -/
theorem leafAt_leaf (hn : N[i]? = some nd) (hl : nd.leaf = true) : LeafAt N i d sym ↔ d = [] ∧ nd.sym = sym := by
  cases d with
  | nil => simp [LeafAt, slotAt_of_getElem? hn, hl]
  | cons b d => simp [LeafAt, follow_leaf hn hl]

/-- From an internal slot a path to a leaf has a first bit (42_table.md R161). -/
theorem leafAt_inner (hn : N[i]? = some nd) (hl : nd.leaf = false) : LeafAt N i d sym ↔
    ∃ b d', d = b :: d' ∧ LeafAt N (if b then nd.right else nd.left).toNat d' sym := by
  cases d with
  | nil => simp [LeafAt, slotAt_of_getElem? hn, hl]
  | cons b d => simp only [LeafAt, follow_cons hn hl, List.cons.injEq, ↓existsAndEq, and_true, true_and]

/-! The traversal. -/

/-- Induction along the traversal of GEN_TABLE (42_table.md R161). -/
theorem leafPaths_induct {P : Nat → Bits → List (Symbol × Bits) → Prop}
    (leaf : ∀ i p nd, N[i]? = some nd → nd.leaf = true → P i p [(nd.sym, p)])
    (inner : ∀ i p nd a b, N[i]? = some nd → nd.leaf = false → P nd.left.toNat (p ++ [false]) a →
      P nd.right.toNat (p ++ [true]) b → P i p (a ++ b))
    (h : leafPaths N fuel i p = some ps) : P i p ps := by
  induction fuel generalizing i p ps with
  | zero => cases h
  | succ fuel ih =>
    rw [leafPaths] at h
    split at h
    · cases h
    · rename_i nd hn
      cases hl : nd.leaf with
      | true =>
        simp only [hl, if_true, Option.some.injEq] at h
        exact h ▸ leaf i p nd hn hl
      | false =>
        simp only [hl, Bool.false_eq_true, if_false] at h
        split at h
        · rename_i a b ha hb
          cases h
          exact inner i p nd a b hn hl (ih ha) (ih hb)
        · cases h

/-- The traversal lists the leaves below its slot, each with its path put after the path to the slot
(42_table.md R161). -/
theorem mem_leafPaths (h : leafPaths N fuel i p = some ps) :
    (sym, c) ∈ ps ↔ ∃ d, c = p ++ d ∧ LeafAt N i d sym := by
  refine leafPaths_induct (P := fun i p ps => ∀ sym c, (sym, c) ∈ ps ↔ ∃ d, c = p ++ d ∧ LeafAt N i d sym)
    ?leaf ?inner h sym c
  case leaf =>
    intro i p nd hn hl sym c
    simp [leafAt_leaf hn hl, and_comm, eq_comm]
  case inner =>
    intro i p nd a b hn hl iha ihb sym c
    simp only [List.mem_append, iha, ihb, leafAt_inner hn hl, List.append_assoc, List.singleton_append]
    constructor
    · rintro (⟨d, rfl, hd⟩ | ⟨d, rfl, hd⟩)
      · exact ⟨false :: d, rfl, false, d, rfl, hd⟩
      · exact ⟨true :: d, rfl, true, d, rfl, hd⟩
    · rintro ⟨-, rfl, b, d, rfl, hd⟩
      cases b with
      | false => exact .inl ⟨d, rfl, hd⟩
      | true => exact .inr ⟨d, rfl, hd⟩

/-- No leaf is listed twice: those below the left child have a 0 where those below the right child have a 1
(42_table.md R161). -/
theorem nodup_leafPaths (h : leafPaths N fuel i p = some ps) : ps.Nodup ∧ ∀ e ∈ ps, p <+: e.2 := by
  refine leafPaths_induct (P := fun _ p ps => ps.Nodup ∧ ∀ e ∈ ps, p <+: e.2) ?leaf ?inner h
  case leaf => simp
  case inner =>
    rintro i p nd a b - - ⟨hna, hpa⟩ ⟨hnb, hpb⟩
    refine ⟨hna.append hnb fun e ha hb => ?_, fun e he => ?_⟩
    · obtain ⟨x, hx⟩ := hpa e ha
      obtain ⟨y, hy⟩ := hpb e hb
      simp [← hx] at hy
    · obtain ha | hb := List.mem_append.mp he
      · exact (List.prefix_append p _).trans (hpa e ha)
      · exact (List.prefix_append p _).trans (hpb e hb)

/-! The table. -/

/-- The entry of a code table for a symbol; `Session.codeOf` for any table (10_state.md R29). -/
def entryOf (T : Vector (Option Bits) 128) (sym : Symbol) : Option Bits := (T[sym.toNat]?).getD none

/-- The code of a symbol is its entry in the session's table. -/
theorem Session.codeOf_eq_entryOf (S : Session) (sym : Symbol) : S.codeOf sym = entryOf S.table sym := rfl

@[simp] theorem entryOf_noCodes (sym : Symbol) : entryOf noCodes sym = none := by
  simp [entryOf, noCodes, sym.isLt]

/-- One assignment more (42_table.md R162). -/
theorem entryOf_assignCodes_concat (ps : List (Symbol × Bits)) (e : Symbol × Bits) (sym : Symbol) :
    entryOf (assignCodes (ps ++ [e])) sym = if e.1 = sym then some e.2 else entryOf (assignCodes ps) sym := by
  have hlt : sym.toNat < 128 := sym.isLt
  simp only [entryOf, assignCodes, List.foldl_concat, Vector.getElem?_setIfInBounds, BitVec.toNat_inj]
  split <;> simp_all

/-- Where no symbol is listed with two paths, the table holds what is listed (42_table.md R162). -/
theorem entryOf_assignCodes (huniq : ∀ {a c c'}, (a, c) ∈ ps → (a, c') ∈ ps → c = c') :
    entryOf (assignCodes ps) sym = some c ↔ (sym, c) ∈ ps := by
  induction ps using List.reverseRecOn with
  | nil => simp [assignCodes]
  | append_singleton ps e ih =>
    obtain ⟨a, c'⟩ := e
    rw [entryOf_assignCodes_concat]
    by_cases he : a = sym
    · subst he
      rw [if_pos rfl]
      exact ⟨fun h => by simpa using .inr (Option.some.inj h).symm, fun h => congrArg some (huniq (by simp) h)⟩
    · rw [if_neg he, ih fun h h' => huniq (List.mem_append_left _ h) (List.mem_append_left _ h')]
      simp [Ne.symm he]

/-! The leaves of a tree. -/

/-- A node that is a leaf stands in a leaf slot (41_tree.md R140). -/
theorem TreeOk.leaf_lt (ht : TreeOk S) {k : Nat} (hk : IsNode S k) (hf : (S.slot k).leaf = true) :
    k < S.nsym.toNat := by
  by_contra hc
  obtain ⟨-, hleaf, -⟩ := ht.inner k hk (Nat.le_of_not_lt hc)
  simp [hleaf] at hf

/-- No two leaf slots hold one symbol: their weights would both be its count, and equal weights are in order of the
symbols (40_analyze.md R122). -/
theorem LeavesOk.sym_inj (hl : LeavesOk cap S) {i j : Nat} (hi : i < S.nsym.toNat) (hj : j < S.nsym.toNat)
    (h : (S.slot i).sym = (S.slot j).sym) : i = j := by
  have not_lt : ∀ {i j}, j < S.nsym.toNat → (S.slot i).sym = (S.slot j).sym → ¬ i < j := by
    intro i j hj h hij
    have hw : (S.slot i).weight = (S.slot j).weight := by
      rw [hl.weight_count i (hij.trans hj), hl.weight_count j hj, h]
    have hb := hl.ordered j hj i hij
    rw [slotBefore, hw, h] at hb
    simp at hb
  exact Nat.le_antisymm (Nat.le_of_not_lt (not_lt hi h.symm)) (Nat.le_of_not_lt (not_lt hj h))

/-- The symbols that have a path to a leaf are those of the leaf slots (42_table.md R163). -/
theorem TreeOk.exists_isPathOf (ht : TreeOk S) (hl : LeavesOk cap S) :
    (∃ c, IsPathOf S c sym) ↔ ∃ i < S.nsym.toNat, (S.slot i).sym = sym := by
  constructor
  · rintro ⟨c, k, hk, hleaf, hsym⟩
    exact ⟨k, ht.leaf_lt (ht.isNode_of_follow hl (ht.root_isNode hl) hk) hleaf, hsym⟩
  · rintro ⟨i, hi, hsym⟩
    obtain ⟨-, hleaf, -⟩ := hl.leaf i hi
    obtain ⟨c, hc, -⟩ := ht.exists_unique_path hl (k := i) (by unfold IsNode; omega)
    exact ⟨c, i, hc, hleaf, hsym⟩

/-- A symbol has at most one path: it is held by one leaf, and a leaf has one path (41_tree.md R150,
42_table.md R162). -/
theorem TreeOk.isPathOf_unique (ht : TreeOk S) (hl : LeavesOk cap S) {c c' : Bits} (h : IsPathOf S c sym)
    (h' : IsPathOf S c' sym) : c = c' := by
  obtain ⟨k, hk, hleaf, hsym⟩ := h
  obtain ⟨k', hk', hleaf', hsym'⟩ := h'
  have hnode := ht.isNode_of_follow hl (ht.root_isNode hl) hk
  have hnode' := ht.isNode_of_follow hl (ht.root_isNode hl) hk'
  obtain rfl := hl.sym_inj (ht.leaf_lt hnode hleaf) (ht.leaf_lt hnode' hleaf') (hsym.trans hsym'.symm)
  obtain ⟨_, -, huniq⟩ := ht.exists_unique_path hl hnode
  rw [huniq c hk, huniq c' hk']

/-! The table of a tree. -/

/-- The code table is the table of a traversal that lists exactly the paths of the symbols (42_table.md R160). -/
theorem codeTable_paths {T : Vector (Option Bits) 128} (h : codeTable S.node S.root.toNat = some T) :
    ∃ ps, leafPaths S.node 255 S.root.toNat [] = some ps ∧ T = assignCodes ps ∧
      ∀ a c, (a, c) ∈ ps ↔ IsPathOf S c a := by
  obtain ⟨ps, hps, rfl⟩ := Option.map_eq_some_iff.mp h
  exact ⟨ps, hps, rfl, fun a c => by simp [mem_leafPaths hps, isPathOf_iff_leafAt]⟩

/-- The code table of a tree assigns to each symbol its path from the root (42_table.md R161, R162). -/
theorem TreeOk.entryOf_codeTable (ht : TreeOk S) (hl : LeavesOk cap S) {T : Vector (Option Bits) 128}
    (h : codeTable S.node S.root.toNat = some T) : entryOf T sym = some c ↔ IsPathOf S c sym := by
  obtain ⟨ps, -, rfl, hmem⟩ := codeTable_paths h
  rw [entryOf_assignCodes fun ha hb => ht.isPathOf_unique hl ((hmem _ _).mp ha) ((hmem _ _).mp hb), hmem]

/-! The command. -/

/-- What a session in phase TABLED holds (10_state.md R24, R29). -/
theorem SessionOk.tabled (h : SessionOk cap S) (hp : S.phase = .tabled) :
    LeavesOk cap S ∧ TreeOk S ∧ codeTable S.node S.root.toNat = some S.table := by
  rwa [SessionOk, hp] at h

/-- The state GEN_TABLE answers when it commits the table `T` (42_table.md R160, 45_session.md R220). -/
def State.withTable (T : Vector (Option Bits) 128) (s : State) : State :=
  { s.succeeded with session := { s.session with table := T, phase := .tabled } }

/-- GEN_TABLE commits the table where there is one and OutBuf is within its capacity, its output being empty
(42_table.md R160, 45_session.md R222). -/
theorem exec_genTable_of_some {T : Vector (Option Bits) 128}
    (hp : s.session.phase = .built ∨ s.session.phase = .tabled)
    (hT : codeTable s.session.node s.session.root.toNat = some T) (hfit : s.outBuf.length ≤ s.params.outCap) :
    exec .genTable s = .next (s.withTable T) := by
  have hb : bodyOf .genTable s = .done (s.withSession { s.session with table := T, phase := .tabled }) [] := by
    simp [bodyOf, genTableBody, hT]
  rw [exec_eq, runCommand_of_allowed rfl (by simpa [allowedIn] using hp), hb, finish_done (by simpa using hfit),
    State.commit_eq, List.append_nil]
  rfl

/-- Settles O27: the tree has a code table, it holds the paths, and in phase TABLED it is the table the session
holds. -/
theorem genTableAssignsPaths : Obligations.GenTableAssignsPaths := by
  intro s h hp
  have hl := h.session.leavesOk_of_tree hp
  have ht := h.session.treeOk hp
  obtain ⟨T, hT⟩ := codeTable_some ht hl
  refine ⟨_, exec_genTable_of_some hp hT h.outBuf_le, rfl, fun sym c => ht.entryOf_codeTable hl hT, fun htab => ?_⟩
  obtain ⟨-, -, htable⟩ := h.session.tabled htab
  obtain rfl : s.session.table = T := Option.some.inj (htable.symm.trans hT)
  rw [State.withTable, ← htab]

end Sys2Proof.Machine
end

section
/-! The codes of a session in phase TABLED: their lengths, that none is a prefix of another, and the Kraft equality
(42_table.md R163, R165). -/

namespace Sys2Proof.Machine

variable {N : Vector NodeSlot 255} {fuel i : Nat} {sym : Symbol} {c d p : Bits} {ps : List (Symbol × Bits)} {s : State}
  {cap : Nat} {S : Session}

/-- In phase TABLED the code of a symbol is its path from the root (10_state.md R29, 42_table.md R162). -/
theorem Inv.codeOf_iff (h : Inv s) (hp : s.session.phase = .tabled) :
    s.session.codeOf sym = some c ↔ IsPathOf s.session c sym := by
  obtain ⟨hl, ht, hT⟩ := h.session.tabled hp
  exact ht.entryOf_codeTable hl hT

/-! Lengths. -/

/-- A path from slot `i` is no longer than the number of internal slots up to `i`: each bit is taken at an internal
slot, and leads to an earlier one (41_tree.md R150 (f)). -/
theorem TreeOk.length_le_of_follow (ht : TreeOk S) (hl : LeavesOk cap S) {k : Nat} (hi : IsNode S i)
    (h : follow S.node i c = some k) : c.length ≤ i + 1 - S.nsym.toNat := by
  induction c generalizing i with
  | nil => exact Nat.zero_le _
  | cons b c ih =>
    have hn := hl.slot_of_isNode hi
    cases hleaf : (S.slot i).leaf with
    | true => simp [follow_leaf hn hleaf] at h
    | false =>
      rw [follow_cons hn hleaf] at h
      have hlt := ht.child_lt hl hi hleaf b
      have hlen := ih (hlt.trans hi) h
      obtain ⟨hge, -⟩ := List.mem_range'_1.mp (hl.mem_inner hi hleaf)
      rw [List.length_cons]
      omega

/-- A path from the root to a leaf has at least one bit and at most n - 1 (42_table.md R163). -/
theorem TreeOk.length_of_isPathOf (ht : TreeOk S) (hl : LeavesOk cap S) (h : IsPathOf S c sym) :
    1 ≤ c.length ∧ c.length ≤ S.nsym.toNat - 1 := by
  obtain ⟨k, hk, hleaf, -⟩ := h
  have hlen := ht.length_le_of_follow hl (ht.root_isNode hl) hk
  have hroot := ht.root_slot
  have hn := hl.nsym_ge
  refine ⟨List.length_pos_iff.mpr ?_, by omega⟩
  rintro rfl
  obtain rfl : S.root.toNat = k := Option.some.inj ((follow_nil _ _).symm.trans hk)
  simp [ht.root_inner hl] at hleaf

/-- Settles O28: codes are paths to leaves, and every bit of a path is taken at a different one of the n - 1 internal
slots. -/
theorem codeLengthsBounded : Obligations.CodeLengthsBounded := by
  intro s h hp
  obtain ⟨hl, ht, -⟩ := h.session.tabled hp
  simp only [h.codeOf_iff hp]
  refine ⟨fun sym c hc => ?_, fun sym => ht.exists_isPathOf hl⟩
  obtain ⟨hpos, hlen⟩ := ht.length_of_isPathOf hl hc
  have hn := hl.nsym_le
  exact ⟨hpos, hlen, by omega⟩

/-! Prefixes. -/

/-- A path to a leaf is continued by no bit (42_table.md R165). -/
theorem LeafAt.eq_of_append {a b : Symbol} (h : LeafAt N i c a) (h' : LeafAt N i (c ++ d) b) : a = b := by
  obtain ⟨k, hk, hleaf, hsym⟩ := h
  obtain ⟨j, hj, -, hsym'⟩ := h'
  rw [follow_append, hk, Option.bind_some] at hj
  cases d with
  | nil =>
    rw [follow_nil] at hj
    rw [← hsym, ← hsym', Option.some.inj hj]
  | cons x d =>
    cases hn : N[k]? with
    | none => simp [follow, hn] at hj
    | some nd =>
      rw [slotAt_of_getElem? hn] at hleaf
      simp [follow_leaf hn hleaf] at hj

/-- Settles O29: codes are paths to leaves, where a path ends. -/
theorem codesPrefixFree : Obligations.CodesPrefixFree := by
  intro s h hp a b ca cb ha hb hne hpre
  obtain ⟨d, rfl⟩ := hpre
  exact hne (LeafAt.eq_of_append ((h.codeOf_iff hp).mp ha) ((h.codeOf_iff hp).mp hb))

/-! The Kraft equality. -/

/-- What a code adds to the Kraft sum (42_table.md R165). -/
def kraftWeight (c : Bits) : ℚ := 1 / 2 ^ c.length

/-- The two codes one bit longer share the weight of a code. -/
theorem kraftWeight_split (c : Bits) : kraftWeight (c ++ [false]) + kraftWeight (c ++ [true]) = kraftWeight c := by
  simp only [kraftWeight, List.length_append, List.length_singleton, pow_succ]
  ring

/-- The leaves below a slot share the weight of the path to it (42_table.md R165). -/
theorem kraft_leafPaths (h : leafPaths N fuel i p = some ps) :
    (ps.map fun e => kraftWeight e.2).sum = kraftWeight p := by
  refine leafPaths_induct (P := fun _ p ps => (ps.map fun e => kraftWeight e.2).sum = kraftWeight p) ?leaf ?inner h
  case leaf => simp
  case inner =>
    intro i p nd a b _ _ iha ihb
    rw [List.map_append, List.sum_append, iha, ihb, kraftWeight_split]

/-- The symbols in order (00_scope.md R12). -/
def allSymbols : List Symbol := (List.range 128).map (BitVec.ofNat 7)

theorem nodup_allSymbols : allSymbols.Nodup :=
  List.nodup_range.map_on fun a ha b hb h => by
    have ha := List.mem_range.mp ha
    have hb := List.mem_range.mp hb
    have h := congrArg BitVec.toNat h
    simp only [BitVec.toNat_ofNat] at h
    omega

theorem mem_allSymbols (sym : Symbol) : sym ∈ allSymbols :=
  List.mem_map.mpr ⟨sym.toNat, List.mem_range.mpr sym.isLt, by simp⟩

/-- The assigned entries of the session's table, each with its symbol (10_state.md R29). -/
def Session.assigned (S : Session) : List (Symbol × Bits) :=
  allSymbols.filterMap fun a => (S.codeOf a).map (Prod.mk a)

theorem Session.mem_assigned : (sym, c) ∈ S.assigned ↔ S.codeOf sym = some c := by
  simp [Session.assigned, List.mem_filterMap, mem_allSymbols]

theorem Session.nodup_assigned (S : Session) : S.assigned.Nodup :=
  nodup_allSymbols.filterMap fun a a' e h h' => by
    obtain ⟨_, -, rfl⟩ := Option.map_eq_some_iff.mp h
    obtain ⟨_, -, he⟩ := Option.map_eq_some_iff.mp h'
    exact (congrArg Prod.fst he).symm

/-- In phase TABLED the assigned entries are what the traversal lists (42_table.md R162). -/
theorem Inv.assigned_perm (h : Inv s) (hp : s.session.phase = .tabled) :
    ∃ ps, leafPaths s.session.node 255 s.session.root.toNat [] = some ps ∧ s.session.assigned.Perm ps := by
  obtain ⟨-, -, hT⟩ := h.session.tabled hp
  obtain ⟨ps, hps, -, hmem⟩ := codeTable_paths hT
  obtain ⟨hnodup, -⟩ := nodup_leafPaths hps
  refine ⟨ps, hps, (List.perm_ext_iff_of_nodup s.session.nodup_assigned hnodup).mpr fun ⟨a, c⟩ => ?_⟩
  rw [Session.mem_assigned, h.codeOf_iff hp, hmem]

/-- A sum over the values a partial function has is a sum over its arguments, the others adding 0. -/
theorem sum_map_filterMap {α β : Type} (g : α → Option β) (f : β → ℚ) (l : List α) :
    ((l.filterMap g).map f).sum = (l.map fun x => (g x).elim 0 f).sum := by
  induction l with
  | nil => rfl
  | cons x l ih => cases hx : g x <;> simp [hx, ih]

/-- Settles O30: the assigned entries are the leaves below the root, which share the weight 1 of the empty path. -/
theorem kraftEquality : Obligations.KraftEquality := by
  intro s h hp
  obtain ⟨ps, hps, hperm⟩ := h.assigned_perm hp
  calc _ = (allSymbols.map fun a => ((s.session.codeOf a).map (Prod.mk a)).elim 0 fun e => kraftWeight e.2).sum := by
        rw [allSymbols, List.map_map]
        refine congrArg List.sum (List.map_congr_left fun n _ => ?_)
        rw [Function.comp_apply]
        cases s.session.codeOf (BitVec.ofNat 7 n) <;> rfl
    _ = (s.session.assigned.map fun e => kraftWeight e.2).sum := (sum_map_filterMap _ _ _).symm
    _ = (ps.map fun e => kraftWeight e.2).sum := (hperm.map _).sum_eq
    _ = kraftWeight [] := kraft_leafPaths hps
    _ = 1 := by simp [kraftWeight]

end Sys2Proof.Machine
end

section
/-! The bit packer and unpacker against the spec's formulas: the cut into bytes by R100's sum, the bits of an operand by
R101, and the header found where the packer put it (30_encoding.md R98 to R101, R104; 43_pack.md R181, R185, R186). -/

namespace Sys2Proof.Machine

variable {B : List Byte} {P Q : Bits}

/-! The cut into bytes. -/

/-- The byte of group `j` of a stream, by the sum of 30_encoding.md R100. -/
def groupByte (Q : Bits) (j : Nat) : Byte :=
  BitVec.ofNat 8 (((List.range 8).map fun m => (Q.getD (8 * j + m) false).toNat * 2 ^ (7 - m)).sum)

/-- The spec's bytes are the groups of the spec's stream. -/
theorem specPack_eq (P : Bits) : specPack P = (List.range (P.length / 8 + 1)).map (groupByte (specStream P)) := rfl

/-- The first group's byte is the packer's (30_encoding.md R100). -/
theorem groupByte_zero (b0 b1 b2 b3 b4 b5 b6 b7 : Bool) (Q : Bits) :
    groupByte (b0 :: b1 :: b2 :: b3 :: b4 :: b5 :: b6 :: b7 :: Q) 0 =
      byteOfBits [b0, b1, b2, b3, b4, b5, b6, b7] := by
  refine congrArg (BitVec.ofNat 8) ?_
  simp [List.range_succ, valueOfBits]
  ring

/-- The later groups are those of the stream without the first (30_encoding.md R100). -/
theorem groupByte_succ (b0 b1 b2 b3 b4 b5 b6 b7 : Bool) (Q : Bits) (j : Nat) :
    groupByte (b0 :: b1 :: b2 :: b3 :: b4 :: b5 :: b6 :: b7 :: Q) (j + 1) = groupByte Q j := by
  have hget : ∀ m, (b0 :: b1 :: b2 :: b3 :: b4 :: b5 :: b6 :: b7 :: Q).getD (8 * (j + 1) + m) false =
      Q.getD (8 * j + m) false := fun m => by
    rw [show 8 * (j + 1) + m = 8 * j + m + 8 by ring]; rfl
  simp only [groupByte, hget]

/-- A stream of whole groups is cut into the bytes R100 gives (30_encoding.md R100). -/
theorem groupBytes_eq {n : Nat} (h : Q.length = 8 * n) : groupBytes Q = (List.range n).map (groupByte Q) := by
  induction Q using groupBytes.induct generalizing n with
  | case1 b0 b1 b2 b3 b4 b5 b6 b7 rest ih =>
    simp only [List.length_cons] at h
    obtain ⟨n, rfl⟩ : ∃ k, n = k + 1 := ⟨n - 1, by omega⟩
    rw [groupBytes, ih (n := n) (by omega), List.range_succ_eq_map, List.map_cons, List.map_map, groupByte_zero]
    exact congrArg _ (List.map_congr_left fun j _ => (groupByte_succ b0 b1 b2 b3 b4 b5 b6 b7 rest j).symm)
  | case2 Q hQ =>
    match Q, hQ with
    | b0 :: b1 :: b2 :: b3 :: b4 :: b5 :: b6 :: b7 :: rest, hQ => exact absurd rfl (hQ b0 b1 b2 b3 b4 b5 b6 b7 rest)
    | [], _ | [_], _ | [_, _], _ | [_, _, _], _ | [_, _, _, _], _ | [_, _, _, _, _], _ | [_, _, _, _, _, _], _
    | [_, _, _, _, _, _, _], _ =>
      obtain rfl : n = 0 := by simp only [List.length_cons, List.length_nil] at h; omega
      rfl

/-- PackBits emits the bytes the spec gives (43_pack.md R181, 30_encoding.md R98, R100). -/
theorem packBytes_eq_specPack (P : Bits) : packBytes P = specPack P := by
  have hlen : (packStream P).length = 8 * (P.length / 8 + 1) := by rw [packStream_length, padOf]; omega
  rw [specPack_eq, packBytes, groupBytes_eq hlen, packStream_eq]

/-- The spec's bytes of a payload, counted (30_encoding.md R102). -/
@[simp] theorem specPack_length (P : Bits) : (specPack P).length = P.length / 8 + 1 := by simp [specPack]

/-! The bits of an operand. -/

/-- Unpacking a packed payload gives the header and the payload (43_pack.md R181, R185). -/
theorem unpackStream_packBytes (P : Bits) : unpackStream (packBytes P) = packStream P :=
  unpackStream_groupBytes _ (by rw [packStream_length]; exact padOf_aligned _)

/-- The bits of an operand as the spec numbers them (30_encoding.md R101). -/
theorem unpackStream_eq_specUnpack (B : List Byte) : unpackStream B = specUnpack B := by
  induction B with
  | nil => rfl
  | cons b B ih =>
    have hidx : ∀ k, (8 + k) / 8 = k / 8 + 1 ∧ (8 + k) % 8 = k % 8 := fun k => by omega
    have hfirst : ∀ k ∈ List.range 8, ((b :: B).getD (k / 8) 0).getLsbD (7 - k % 8) = b.getLsbD (7 - k) := by
      intro k hk
      have hk := List.mem_range.mp hk
      rw [Nat.div_eq_of_lt hk, Nat.mod_eq_of_lt hk, List.getD_cons_zero]
    rw [unpackStream_cons, ih, specUnpack, specUnpack, List.length_cons, Nat.mul_add, Nat.mul_one, Nat.add_comm,
      List.range_add, List.map_append, List.map_congr_left hfirst, List.map_map]
    simp [bitsOfByte, hidx]

/-! The header. -/

/-- A header of `h` bits is found at its 1 (43_pack.md R185). -/
theorem unpackBytes_of_header {h : Nat} (hpos : 1 ≤ h) (hle : h ≤ 8)
    (hB : unpackStream B = List.replicate (h - 1) false ++ true :: P) : unpackBytes B = some (P, h) := by
  obtain ⟨k, rfl⟩ : ∃ k, h = k + 1 := ⟨h - 1, by omega⟩
  rw [Nat.add_sub_cancel] at hB
  have htake : (unpackStream B).take 8 = List.replicate k false ++ true :: P.take (7 - k) := by
    rw [hB, List.take_append, List.take_of_length_le (by simp; omega), List.length_replicate,
      show 8 - k = 7 - k + 1 by omega, List.take_succ_cons]
  have hfind : ((unpackStream B).take 8).findIdx? (· = true) = some k := by
    simp [htake, List.findIdx?_append, List.findIdx?_cons]
  have hdrop : (unpackStream B).drop (k + 1) = P := by
    rw [hB, List.drop_append]; simp
  simp only [unpackBytes, hfind, hdrop]

/-- UnpackBytes undoes PackBits (43_pack.md R188). -/
theorem unpackBytes_packBytes (P : Bits) : unpackBytes (packBytes P) = some (P, padOf P.length) := by
  obtain ⟨hpos, hle⟩ := padOf_range P.length
  exact unpackBytes_of_header hpos hle (by rw [unpackStream_packBytes]; simp [packStream])

/-- The first 8 bits of an operand that is empty or begins with 0x00 hold no 1 (43_pack.md R186). -/
theorem unpackBytes_eq_none (h : B = [] ∨ ∃ rest, B = 0x00#8 :: rest) : unpackBytes B = none := by
  obtain rfl | ⟨rest, rfl⟩ := h
  · rfl
  · have hbits : (unpackStream (0x00#8 :: rest)).take 8 = bitsOfByte 0x00#8 := by
      rw [unpackStream_cons, List.take_left' (bitsOfByte_length _)]
    rw [unpackBytes, hbits]
    rfl

/-! Bit characters. -/

/-- The bit of a bit's character is the bit (30_encoding.md R104). -/
@[simp] theorem bitOfChar_charOfBit (b : Bool) : bitOfChar (charOfBit b) = b := by cases b <;> rfl

/-- The spec's bit characters are UNPACK's output (30_encoding.md R104, 43_pack.md R184). -/
theorem bitChars_eq (P : Bits) : bitChars P = P.map charOfBit := rfl

/-- A bit sequence has one character for each bit (30_encoding.md R104). -/
@[simp] theorem bitChars_length (P : Bits) : (bitChars P).length = P.length := List.length_map _

/-- PACK reads a bit sequence back from its characters (43_pack.md R180). -/
@[simp] theorem map_bitOfChar_bitChars (P : Bits) : (bitChars P).map bitOfChar = P := by
  simp [bitChars_eq, Function.comp_def]

/-- The scan of bit characters finds no other byte (43_pack.md R182). -/
theorem findIdx?_notBitChar_eq_none (h : ∀ x ∈ B, x = 0x30#8 ∨ x = 0x31#8) : B.findIdx? notBitChar = none :=
  List.findIdx?_eq_none_iff.mpr fun x hx => by
    obtain rfl | rfl := h x hx <;> rfl

/-- The first other byte is found at its index (43_pack.md R182). -/
theorem findIdx?_notBitChar {xs ys : List Byte} {b : Byte} (hxs : ∀ x ∈ xs, x = 0x30#8 ∨ x = 0x31#8)
    (h0 : b ≠ 0x30#8) (h1 : b ≠ 0x31#8) : (xs ++ b :: ys).findIdx? notBitChar = some xs.length := by
  simp [List.findIdx?_append, List.findIdx?_cons, findIdx?_notBitChar_eq_none hxs, notBitChar, h0, h1]

/-- The characters of a bit sequence are bit characters (30_encoding.md R104). -/
theorem mem_bitChars {x : Byte} (h : x ∈ bitChars P) : x = 0x30#8 ∨ x = 0x31#8 := by
  obtain ⟨b, -, rfl⟩ := List.mem_map.mp h
  cases b
  · exact .inl rfl
  · exact .inr rfl

end Sys2Proof.Machine
end

section
/-! ENCODE, PACK and UNPACK at the command: what each answers, its errors, and the round trip (43_pack.md R175 to
R188). -/

namespace Sys2Proof.Machine

variable {s t : State} {S : Session} {i : Instr} {P : Bits} {src : List Byte}

/-! The frame around a consuming command. -/

/-- Without IN_OVF and in a phase of its own, a consuming command fails with its body's error (45_session.md R220,
R221). -/
theorem exec_of_raise (hc : consuming i = true) (ho : s.inOvf = false) (ha : allowedIn i s.session.phase = true)
    {code : ErrorCode} {info : Nat} (hb : bodyOf i s = .raise code (BitVec.ofNat 32 info)) :
    exec i s = .next (s.failedConsuming code info) := by
  rw [exec_eq, runCommand_of_allowed (by simp [ho]) ha, hb, finish_raise, State.fail_of_consuming hc]

/-- A commit of output and lengths leaves exactly what `produced` says (45_session.md R220, 10_state.md R56). -/
theorem State.commit_withLengths (hc : consuming i = true) (out : List Byte) (len pad : Nat) (s : State) :
    (s.withLengths len pad).commit i out = s.produced out len pad := by
  rw [State.commit_eq, hc]; rfl

/-- Without IN_OVF and in a phase of its own, a consuming command whose body writes the lengths commits its output
where it fits (45_session.md R222). -/
theorem exec_of_done (hc : consuming i = true) (ho : s.inOvf = false) (ha : allowedIn i s.session.phase = true)
    {out : List Byte} {len pad : Nat} (hb : bodyOf i s = .done (s.withLengths len pad) out)
    (hfit : s.outBuf.length + out.length ≤ s.params.outCap) : exec i s = .next (s.produced out len pad) := by
  rw [exec_eq, runCommand_of_allowed (by simp [ho]) ha, hb, finish_done hfit, State.commit_withLengths hc]

/-- A command that completes without an error passed the frame's checks and committed its body's output
(45_session.md R220). -/
theorem exec_success (he : exec i s = .next t) (herr : t.errCode = .none) :
    (consuming i && s.inOvf) = false ∧ allowedIn i s.session.phase = true ∧
      ∃ s' out, bodyOf i s = .done s' out ∧ s.outBuf.length + out.length ≤ s.params.outCap ∧ t = s'.commit i out := by
  rw [exec_eq] at he
  obtain ⟨-, -, rfl⟩ | ⟨ho, ⟨-, rfl⟩ | ⟨ha, ⟨code, info, hb, rfl⟩ | ⟨s', out, hb, ⟨-, rfl⟩ | ⟨hfit, rfl⟩⟩⟩⟩ :=
    runCommand_cases he
  · cases herr
  · cases herr
  · exact absurd herr (bodyOf_raise_ne_none hb)
  · cases herr
  · exact ⟨ho, ha, s', out, hb, hfit, rfl⟩

/-! The payload of a source. -/

/-- The symbol of a byte by its value (30_encoding.md R96). -/
theorem symbolOf_eq (b : Byte) : symbolOf b = BitVec.ofNat 7 b.toNat := (BitVec.ofNat_toNat 7 b).symm

/-- A byte below 0x80 is a symbol (30_encoding.md R96). -/
theorem outOfRange_eq_false {b : Byte} (h : b.toNat < 0x80) : outOfRange b = false := by simpa [outOfRange] using h

/-- A byte with a code contributes the code, and the rest decides (43_pack.md R175). -/
theorem payloadOf_cons {b : Byte} {c : Bits} (hb : b.toNat < 0x80)
    (hc : S.codeOf (BitVec.ofNat 7 b.toNat) = some c) (k : Nat) (src : List Byte) :
    payloadOf S k (b :: src) = (payloadOf S (k + 1) src).map (c ++ ·) := by
  rw [← symbolOf_eq] at hc
  rw [payloadOf, outOfRange_eq_false hb, hc]
  cases payloadOf S (k + 1) src <;> rfl

/-- The payload of a source whose symbols all have codes is their concatenation (43_pack.md R175). -/
theorem payloadOf_eq_ok {cs : List Bits}
    (h : List.Forall₂ (fun b c => b.toNat < 0x80 ∧ S.codeOf (BitVec.ofNat 7 b.toNat) = some c) src cs) (k : Nat) :
    payloadOf S k src = .ok cs.flatten := by
  induction h generalizing k with
  | nil => rfl
  | cons hbc _ ih =>
    obtain ⟨hb, hc⟩ := hbc
    rw [payloadOf_cons hb hc, ih]
    rfl

/-- Bytes that all have codes put off the error of the rest (43_pack.md R176). -/
theorem payloadOf_append_error {xs : List Byte} {e : ErrorCode × Nat}
    (hxs : ∀ x ∈ xs, x.toNat < 0x80 ∧ S.codeOf (BitVec.ofNat 7 x.toNat) ≠ none) {k : Nat}
    (h : payloadOf S (k + xs.length) src = .error e) : payloadOf S k (xs ++ src) = .error e := by
  induction xs generalizing k with
  | nil => exact h
  | cons x xs ih =>
    obtain ⟨hx, hxs⟩ := List.forall_mem_cons.mp hxs
    obtain ⟨hb, hcode⟩ := hx
    obtain ⟨c, hc⟩ := Option.ne_none_iff_exists'.mp hcode
    rw [List.length_cons, Nat.add_comm xs.length, ← Nat.add_assoc] at h
    rw [List.cons_append, payloadOf_cons hb hc, ih hxs h]
    rfl

/-! ENCODE. -/

/-- ENCODE may run in phase TABLED (60_exceptions.md R240). -/
theorem allowedIn_encode (hp : s.session.phase = .tabled) : allowedIn .encode s.session.phase = true := by
  rw [hp]; rfl

/-- The body of ENCODE on a source with a payload (43_pack.md R175). -/
theorem encodeBody_of_ok (hne : s.inBuf ≠ []) (h : payloadOf s.session 0 s.inBuf = .ok P) :
    encodeBody s = packResult s P := by
  simp [encodeBody, hne, h]

/-- The body of ENCODE on a source with a failing byte (43_pack.md R176). -/
theorem encodeBody_of_error (hne : s.inBuf ≠ []) {code : ErrorCode} {k : Nat}
    (h : payloadOf s.session 0 s.inBuf = .error (code, k)) : encodeBody s = .raise code (BitVec.ofNat 32 k) := by
  simp [encodeBody, hne, h]

/-- Settles O31: the payload is the concatenation of the codes, and the packer emits the spec's bytes of it. -/
theorem encodeEmitsPackedCodes : Obligations.EncodeEmitsPackedCodes := by
  intro s cs hp ho hne hcs hfit
  have hb : bodyOf .encode s = packResult s cs.flatten := encodeBody_of_ok hne (payloadOf_eq_ok hcs 0)
  rw [packResult, packBytes_eq_specPack] at hb
  exact exec_of_done rfl ho (allowedIn_encode hp) hb (by rwa [specPack_length])

/-- Settles O32: the bytes before the failing one have codes, so its error is the payload's. -/
theorem encodeFirstFailingByte : Obligations.EncodeFirstFailingByte := by
  intro s hp ho
  have ha := allowedIn_encode hp
  refine ⟨fun hin => exec_of_raise rfl ho ha (if_pos hin), fun xs ys b hin hxs => ?_⟩
  have hfail : ∀ code, payloadOf s.session (0 + xs.length) (b :: ys) = .error (code, xs.length) →
      exec .encode s = .next (s.failedConsuming code xs.length) := fun code h =>
    exec_of_raise rfl ho ha
      (encodeBody_of_error (by simp [hin]) (by rw [hin]; exact payloadOf_append_error hxs h))
  refine ⟨fun hb => hfail _ ?_, fun hb hc => hfail _ ?_⟩
  · simp [payloadOf, outOfRange, hb]
  · rw [← symbolOf_eq] at hc
    simp [payloadOf, outOfRange_eq_false hb, hc]

/-- The body of ENCODE raises no error of PACK's (43_pack.md R176, R182). -/
theorem encodeBody_raise {code : ErrorCode} {info : Word} (h : encodeBody s = .raise code info) :
    code = .emptySource ∨ code = .symbolRange ∨ code = .unassignedSymbol := by
  by_cases hne : s.inBuf = []
  · rw [encodeBody, if_pos hne] at h
    cases h
    exact .inl rfl
  · cases hP : payloadOf s.session 0 s.inBuf with
    | ok P => rw [encodeBody_of_ok hne hP] at h; cases h
    | error e =>
      rw [encodeBody_of_error hne hP] at h
      cases h
      exact .inr (payloadOf_error hP)

/-- No completion of ENCODE has INVALID_BIT_CHAR (43_pack.md R182). -/
theorem exec_encode_ne_invalidBitChar (he : exec .encode s = .next t) : t.errCode ≠ .invalidBitChar := by
  rw [exec_eq] at he
  obtain ⟨-, -, rfl⟩ | ⟨-, ⟨-, rfl⟩ | ⟨-, ⟨code, info, hb, rfl⟩ | ⟨s', out, -, ⟨-, rfl⟩ | ⟨-, rfl⟩⟩⟩⟩ :=
    runCommand_cases he
  · nofun
  · nofun
  · obtain rfl | rfl | rfl := encodeBody_raise hb <;> nofun
  · nofun
  · nofun

/-! PACK. -/

/-- The body of PACK on bit characters, by the spec's bytes (43_pack.md R180, R181). -/
theorem packBody_of_bitChars (hin : s.inBuf = bitChars P) :
    packBody s = .done (s.withLengths P.length (padOf P.length)) (specPack P) := by
  have hscan : s.inBuf.findIdx? notBitChar = none := by
    rw [hin]; exact findIdx?_notBitChar_eq_none fun _ => mem_bitChars
  rw [packBody, hscan, hin, ← packBytes_eq_specPack, map_bitOfChar_bitChars, packResult]

/-- Settles O33: PACK may run in every phase, and its body packs the bits of the characters. -/
theorem packEmitsStream : Obligations.PackEmitsStream := by
  intro s P ho hin hfit
  exact exec_of_done rfl ho rfl (packBody_of_bitChars hin) (by rwa [specPack_length])

/-- Settles O34: PACK's scan stops at the first byte that is no bit character; the errors of ENCODE are others. -/
theorem packRejectsBadChar : Obligations.PackRejectsBadChar := by
  refine ⟨fun s xs ys b ho hin hxs h0 h1 => exec_of_raise rfl ho rfl ?_, fun s t => exec_encode_ne_invalidBitChar⟩
  have hscan : s.inBuf.findIdx? notBitChar = some xs.length := by rw [hin, findIdx?_notBitChar hxs h0 h1]
  simp [bodyOf, packBody, hscan]

/-! UNPACK. -/

/-- The body of UNPACK on an operand with a header (43_pack.md R184). -/
theorem unpackBody_of_some {h : Nat} (hu : unpackBytes s.inBuf = some (P, h)) :
    unpackBody s = .done (s.withLengths P.length h) (bitChars P) := by
  rw [unpackBody, hu, bitChars_eq]

/-- UNPACK of an operand with a header outputs the payload's bit characters, in every phase (43_pack.md R184). -/
theorem exec_unpack_of_some (ho : s.inOvf = false) {h : Nat} (hu : unpackBytes s.inBuf = some (P, h))
    (hfit : s.outBuf.length + P.length ≤ s.params.outCap) :
    exec .unpack s = .next (s.produced (bitChars P) P.length h) :=
  exec_of_done rfl ho rfl (unpackBody_of_some hu) (by rwa [bitChars_length])

/-- Settles O35: the operand's bits are the header and the payload, so UnpackBytes finds both. -/
theorem unpackEmitsPayload : Obligations.UnpackEmitsPayload := by
  intro s P h ho hpos hle hB hfit
  rw [← unpackStream_eq_specUnpack] at hB
  exact exec_unpack_of_some ho (unpackBytes_of_header hpos hle hB) hfit

/-- Settles O36: UnpackBytes finds no header, for UNPACK and for DECODE alike. -/
theorem headerNotFound : Obligations.HeaderNotFound := by
  intro s ho hB
  have hnone := unpackBytes_eq_none hB
  refine ⟨exec_of_raise rfl ho rfl ?_, fun hp => exec_of_raise rfl ho (by simpa [allowedIn] using hp) ?_⟩
  · simp [bodyOf, unpackBody, hnone]
  · simp [bodyOf, decodeBody, hnone]

/-! The round trip. -/

/-- A PACK of bit characters without an error has appended the spec's bytes (43_pack.md R181). -/
theorem exec_pack_success (hin : s.inBuf = bitChars P) (he : exec .pack s = .next t) (herr : t.errCode = .none) :
    t = s.produced (specPack P) P.length (padOf P.length) := by
  obtain ⟨-, -, s', out, hb, -, rfl⟩ := exec_success he herr
  cases (packBody_of_bitChars hin).symm.trans hb
  exact State.commit_withLengths rfl _ _ _ _

/-- Settles O37: the bytes PACK appended are PackBits of the bits, which UnpackBytes undoes; both commands write the
same lengths. -/
theorem packUnpackRoundTrip : Obligations.PackUnpackRoundTrip := by
  refine ⟨unpackBytes_packBytes, fun s t P hin he herr hfit => ?_⟩
  rw [exec_pack_success hin he herr]
  refine exec_unpack_of_some rfl (h := padOf P.length) ?_ (by simpa [State.produced] using hfit)
  simp [State.produced, ← packBytes_eq_specPack, unpackBytes_packBytes]

/-! The session. -/

/-- The bodies of PACK and UNPACK read no part of the session: with any session they raise one error, or emit one
output and write one pair of lengths (43_pack.md R180, R184). -/
theorem bodyOf_withSession (hi : i = .pack ∨ i = .unpack) (s : State) :
    (∃ code info, ∀ S, bodyOf i (s.withSession S) = .raise code info) ∨
    ∃ len pad out, ∀ S, bodyOf i (s.withSession S) = .done ((s.withSession S).withLengths len pad) out := by
  obtain rfl | rfl := hi
  · cases hscan : s.inBuf.findIdx? notBitChar with
    | some k => exact .inl ⟨.invalidBitChar, BitVec.ofNat 32 k, fun S => by simp [bodyOf, packBody, hscan]⟩
    | none =>
      refine .inr ⟨s.inBuf.length, padOf s.inBuf.length, packBytes (s.inBuf.map bitOfChar), fun S => ?_⟩
      simp [bodyOf, packBody, hscan, packResult]
  · cases hu : unpackBytes s.inBuf with
    | none => exact .inl ⟨.headerNotFound, 0, fun S => by simp [bodyOf, unpackBody, hu]⟩
    | some r => exact .inr ⟨r.1.length, r.2, r.1.map charOfBit, fun S => by simp [bodyOf, unpackBody, hu]⟩

/-- So PACK and UNPACK answer alike with any session: one failure, or one commit (43_pack.md R180, R184). -/
theorem exec_withSession (hi : i = .pack ∨ i = .unpack) (s : State) :
    (∃ code info, ∀ S, exec i (s.withSession S) = .next ((s.withSession S).fail i code info)) ∨
    ∃ len pad out, ∀ S,
      exec i (s.withSession S) = .next (((s.withSession S).withLengths len pad).commit i out) := by
  have hc : consuming i = true := by obtain rfl | rfl := hi <;> rfl
  have ha : ∀ p, allowedIn i p = true := by obtain rfl | rfl := hi <;> exact fun _ => rfl
  cases ho : s.inOvf with
  | true => exact .inl ⟨_, _, fun S => (exec_eq i _).trans (runCommand_of_overflow hc ho)⟩
  | false =>
    have hframe : ∀ S, exec i (s.withSession S) = finish i (s.withSession S) (bodyOf i (s.withSession S)) :=
      fun S => (exec_eq i _).trans (runCommand_of_allowed (by simp [ho]) (ha _))
    obtain ⟨code, info, hb⟩ | ⟨len, pad, out, hb⟩ := bodyOf_withSession hi s
    · exact .inl ⟨code, info, fun S => by rw [hframe, hb, finish_raise]⟩
    · by_cases hfit : s.outBuf.length + out.length ≤ s.params.outCap
      · exact .inr ⟨len, pad, out, fun S => by rw [hframe, hb]; exact finish_done hfit⟩
      · refine .inl ⟨.outOverflow, BitVec.ofNat 32 out.length, fun S => ?_⟩
        rw [hframe, hb]
        exact finish_overflow (Nat.lt_of_not_le hfit)

/-- Settles O15: the failure or the commit is the same with either session, and neither writes it. -/
theorem packUnpackIgnoreSession : Obligations.PackUnpackIgnoreSession := by
  intro i s S hi
  obtain ⟨code, info, he⟩ | ⟨len, pad, out, he⟩ := exec_withSession hi s
  · refine ⟨_, he s.session, State.fail_session _ _ _ _, (he S).trans ?_⟩
    rw [State.fail_eq, State.fail_eq]
    rfl
  · refine ⟨_, he s.session, State.commit_session _ _ _, (he S).trans ?_⟩
    rw [State.commit_eq, State.commit_eq]
    rfl

end Sys2Proof.Machine
end

section
/-! DECODE: no payload has two greedy parses by the paths of the tree's leaves, and the walk finds the one it has
(44_decode.md R200 to R207). -/

namespace Sys2Proof.Machine

variable {s : State} {cap : Nat} {S : Session} {P Q c d code rest : Bits} {a b : Symbol}
  {parts parts' : List (Bits × Symbol)}

/-! Greedy parses. -/

/-- The bits `c` are a proper prefix of a path from the root to a leaf (44_decode.md R207). -/
abbrev Unfinished (S : Session) (c : Bits) : Prop := ∃ more sym, more ≠ [] ∧ IsPathOf S (c ++ more) sym

/-- `P` is a concatenation of paths to leaves, given with the leaves' symbols, and a rest that is a proper prefix of
such a path (44_decode.md R207). -/
structure GreedyParse (S : Session) (P : Bits) (parts : List (Bits × Symbol)) (rest : Bits) : Prop where
  concat : P = (parts.map Prod.fst).flatten ++ rest
  paths : ∀ p ∈ parts, IsPathOf S p.1 p.2
  unfinished : Unfinished S rest

/-- A parse with a first part is a path and a parse of what follows it. -/
theorem GreedyParse.cons_inv {p : Bits × Symbol} (h : GreedyParse S P (p :: parts) rest) :
    IsPathOf S p.1 p.2 ∧ ∃ Q, P = p.1 ++ Q ∧ GreedyParse S Q parts rest := by
  obtain ⟨hp, hparts⟩ := List.forall_mem_cons.mp h.paths
  exact ⟨hp, _, by simpa using h.concat, rfl, hparts, h.unfinished⟩

/-- A path to a leaf is continued by no bit to a path to a leaf (42_table.md R165). -/
theorem TreeOk.eq_of_isPathOf_append (ht : TreeOk S) (hl : LeavesOk cap S) (h : IsPathOf S c a)
    (h' : IsPathOf S (c ++ d) b) : a = b ∧ d = [] := by
  obtain rfl := LeafAt.eq_of_append h h'
  exact ⟨rfl, List.self_eq_append_right.mp (ht.isPathOf_unique hl h h')⟩

/-- A payload whose parse has no part begins with no path: it is itself a proper prefix of one. -/
theorem GreedyParse.not_cons_of_nil (ht : TreeOk S) (hl : LeavesOk cap S) {rest' : Bits} {p : Bits × Symbol}
    (h : GreedyParse S P [] rest) (h' : GreedyParse S P (p :: parts') rest') : False := by
  obtain ⟨hp, Q, rfl, -⟩ := h'.cons_inv
  obtain ⟨more, sym, hmore, hpath⟩ := h.unfinished
  rw [← show p.1 ++ Q = rest from h.concat, List.append_assoc] at hpath
  obtain ⟨-, hnil⟩ := ht.eq_of_isPathOf_append hl hp hpath
  exact hmore (List.append_eq_nil_iff.mp hnil).right

/-- The first parts of two parses of one payload are equal: neither path continues the other (42_table.md R165). -/
theorem TreeOk.isPathOf_cancel (ht : TreeOk S) (hl : LeavesOk cap S) {Q' : Bits} (h : IsPathOf S c a)
    (h' : IsPathOf S d b) (heq : c ++ Q = d ++ Q') : c = d ∧ a = b ∧ Q = Q' := by
  obtain ⟨x, rfl, rfl⟩ | ⟨x, rfl, rfl⟩ := List.append_eq_append_iff.mp heq
  · obtain ⟨rfl, rfl⟩ := ht.eq_of_isPathOf_append hl h h'
    simp
  · obtain ⟨rfl, rfl⟩ := ht.eq_of_isPathOf_append hl h' h
    simp

/-- A payload has at most one greedy parse (44_decode.md R207). -/
theorem GreedyParse.unique (ht : TreeOk S) (hl : LeavesOk cap S) {rest' : Bits} (h : GreedyParse S P parts rest)
    (h' : GreedyParse S P parts' rest') : parts = parts' ∧ rest = rest' := by
  induction parts generalizing P parts' with
  | nil =>
    cases parts' with
    | nil => exact ⟨rfl, h.concat.symm.trans h'.concat⟩
    | cons p' parts' => exact (h.not_cons_of_nil ht hl h').elim
  | cons p parts ih =>
    cases parts' with
    | nil => exact (h'.not_cons_of_nil ht hl h).elim
    | cons p' parts' =>
      obtain ⟨hp, Q, rfl, hQ⟩ := h.cons_inv
      obtain ⟨hp', Q', heq, hQ'⟩ := h'.cons_inv
      obtain ⟨hfst, hsnd, rfl⟩ := ht.isPathOf_cancel hl hp hp' heq
      obtain ⟨rfl, rfl⟩ := ih hQ hQ'
      exact ⟨by rw [Prod.ext hfst hsnd], rfl⟩

/-! The walk. -/

/-- Below every node there is a leaf, the children's slots being earlier (41_tree.md R150 (f)). -/
theorem TreeOk.exists_leafAt (ht : TreeOk S) (hl : LeavesOk cap S) {i : Nat} (hi : IsNode S i) :
    ∃ d sym, LeafAt S.node i d sym := by
  have hn := hl.slot_of_isNode hi
  cases hleaf : (S.slot i).leaf with
  | true => exact ⟨[], _, (leafAt_leaf hn hleaf).mpr ⟨rfl, rfl⟩⟩
  | false =>
    have hlt := ht.child_lt hl hi hleaf false
    obtain ⟨d, sym, hd⟩ := ht.exists_leafAt hl (hlt.trans hi)
    exact ⟨false :: d, sym, (leafAt_inner hn hleaf).mpr ⟨false, d, rfl, hd⟩⟩
termination_by i

/-- A path from the root that ends on a node that is no leaf is a proper prefix of a path to a leaf. -/
theorem TreeOk.unfinished_of_follow (ht : TreeOk S) (hl : LeavesOk cap S) {i : Nat} (hi : IsNode S i)
    (hleaf : (S.slot i).leaf = false) (hc : follow S.node S.root.toNat c = some i) : Unfinished S c := by
  obtain ⟨d, sym, hd⟩ := ht.exists_leafAt hl hi
  obtain ⟨b, d', rfl, -⟩ := (leafAt_inner (hl.slot_of_isNode hi) hleaf).mp hd
  obtain ⟨k, hk, hkleaf, hsym⟩ := hd
  exact ⟨b :: d', sym, List.cons_ne_nil _ _, k, by rw [follow_append, hc, Option.bind_some, hk], hkleaf, hsym⟩

/-- The empty rest is a proper prefix of a path to a leaf, the root being none (41_tree.md R150 (d)). -/
theorem TreeOk.unfinished_nil (ht : TreeOk S) (hl : LeavesOk cap S) : Unfinished S [] :=
  ht.unfinished_of_follow hl (ht.root_isNode hl) (ht.root_inner hl) (follow_nil _ _)

/-- The walk of the payload `P` at the cursor `k` has emitted the symbols of `parts` and taken `code` from the root
since (44_decode.md R201, R202). -/
structure WalkedTo (S : Session) (P : Bits) (k : Cursor) (parts : List (Bits × Symbol)) (code : Bits) : Prop where
  concat : P = (parts.map Prod.fst).flatten ++ (code ++ k.rest)
  paths : ∀ p ∈ parts, IsPathOf S p.1 p.2
  out : k.out = parts.map Prod.snd
  ptr : follow S.node S.root.toNat code = some k.ptr

variable {k k' : Cursor}

/-- The walk begins at the root with no bit taken (44_decode.md R201). -/
theorem walkedTo_start (S : Session) (P : Bits) : WalkedTo S P { ptr := S.root.toNat, rest := P, out := [] } [] [] :=
  ⟨rfl, nofun, rfl, follow_nil _ _⟩

/-- A leaf ends a part (44_decode.md R202). -/
theorem WalkedTo.emit (h : WalkedTo S P k parts code) (hleaf : (S.slot k.ptr).leaf = true) :
    WalkedTo S P { k with ptr := S.root.toNat, out := k.out ++ [(S.slot k.ptr).sym] }
      (parts ++ [(code, (S.slot k.ptr).sym)]) [] where
  concat := by simpa using h.concat
  paths := List.forall_mem_append.mpr ⟨h.paths, List.forall_mem_singleton.mpr ⟨k.ptr, h.ptr, hleaf, rfl⟩⟩
  out := by simp [h.out]
  ptr := follow_nil _ _

/-- A bit taken at an internal node goes on with the part (44_decode.md R202). -/
theorem WalkedTo.consume {x : Bool} {nd : NodeSlot} (h : WalkedTo S P k parts code) (hr : k.rest = x :: rest)
    (hn : S.node[k.ptr]? = some nd) (hleaf : nd.leaf = false) :
    WalkedTo S P { k with ptr := (if x then nd.right else nd.left).toNat, rest := rest } parts (code ++ [x]) where
  concat := by simpa [hr] using h.concat
  paths := h.paths
  out := h.out
  ptr := by rw [follow_append, h.ptr, Option.bind_some, follow_cons hn hleaf, follow_nil]

/-- The walk keeps what it has emitted and taken in step with the payload, and ends with no bit left
(44_decode.md R202). -/
theorem WalkedTo.of_walk {fuel : Nat} (h : WalkedTo S P k parts code) (hw : walk S.node S.root.toNat fuel k = .ok k') :
    k'.rest = [] ∧ ∃ parts code, WalkedTo S P k' parts code := by
  induction fuel generalizing k parts code with
  | zero =>
    rw [walk] at hw
    split at hw
    · rename_i hnil
      cases hw
      exact ⟨hnil, parts, code, h⟩
    · cases hw
  | succ fuel ih =>
    cases hr : k.rest with
    | nil =>
      cases (walk_nil _ _ _ k hr).symm.trans hw
      exact ⟨hr, parts, code, h⟩
    | cons x rest =>
      cases hn : S.node[k.ptr]? with
      | none => simp [walk, hr, hn] at hw
      | some nd =>
        cases hleaf : nd.leaf with
        | true =>
          rw [walk_leaf hr hn hleaf] at hw
          obtain rfl : S.slot k.ptr = nd := slotAt_of_getElem? hn
          exact ih (h.emit hleaf) hw
        | false =>
          rw [walk_inner hr hn hleaf] at hw
          exact ih (h.consume hr hn hleaf) hw

/-- At the end of the walk the flush completes a part that ends on a leaf; on an internal node the bits taken since
the last leaf are the rest, and RESIDUAL says whether there are any (44_decode.md R204, R205). -/
theorem WalkedTo.greedyParse (ht : TreeOk S) (hl : LeavesOk cap S) (h : WalkedTo S P k parts code)
    (hk : IsNode S k.ptr) (hr : k.rest = []) :
    ∃ parts rest, GreedyParse S P parts rest ∧ flushed (S.slot k.ptr) k = parts.map Prod.snd ∧
      residualOf S.root.toNat (S.slot k.ptr) k = decide (rest ≠ []) := by
  cases hleaf : (S.slot k.ptr).leaf with
  | true =>
    have he := h.emit hleaf
    exact ⟨_, [], ⟨by simpa [hr] using he.concat, he.paths, ht.unfinished_nil hl⟩,
      by rw [flushed, if_pos hleaf]; exact he.out, by simp [residualOf, hleaf]⟩
  | false =>
    have hroot : k.ptr = S.root.toNat ↔ code = [] := by
      refine ⟨fun hp => ?_, ?_⟩
      · obtain ⟨_, -, huniq⟩ := ht.exists_unique_path hl (ht.root_isNode hl)
        rw [huniq code (hp ▸ h.ptr), huniq [] (follow_nil _ _)]
      · rintro rfl
        exact Option.some.inj (h.ptr.symm.trans (follow_nil _ _))
    exact ⟨parts, code, ⟨by simpa [hr] using h.concat, h.paths, ht.unfinished_of_follow hl hk hleaf h.ptr⟩,
      by simp [flushed, hleaf, h.out], by simp [residualOf, hleaf, hroot]⟩

/-- Walk, flush and residual of every payload are its greedy parse (44_decode.md R207). -/
theorem decodePayload_greedyParse (ht : TreeOk S) (hl : LeavesOk cap S) (P : Bits) :
    ∃ parts rest, GreedyParse S P parts rest ∧
      decodePayload S.node S.root.toNat P = .ok (parts.map Prod.snd, decide (rest ≠ [])) := by
  obtain ⟨k, hw, hk⟩ := walk_ok ht hl (fuel := 2 * P.length) (c := { ptr := S.root.toNat, rest := P, out := [] })
    (ht.root_isNode hl) (.inr (by simp [stepsLeft, ht.root_inner hl]))
  obtain ⟨hr, parts, code, hwalked⟩ := (walkedTo_start S P).of_walk hw
  obtain ⟨parts, rest, hparse, hout, hres⟩ := hwalked.greedyParse ht hl hk hr
  exact ⟨parts, rest, hparse, by simp only [decodePayload, hw, hl.slot_of_isNode hk, hout, hres]⟩

/-- The parse of a payload, however found, is what DECODE's walk answers (44_decode.md R207). -/
theorem GreedyParse.decodePayload_eq (ht : TreeOk S) (hl : LeavesOk cap S) (h : GreedyParse S P parts rest) :
    decodePayload S.node S.root.toNat P = .ok (parts.map Prod.snd, decide (rest ≠ [])) := by
  obtain ⟨parts', rest', h', hd⟩ := decodePayload_greedyParse ht hl P
  obtain ⟨rfl, rfl⟩ := h.unique ht hl h'
  exact hd

/-! The command. -/

/-- Without IN_OVF and in a phase of its own, a consuming command whose output does not fit fails with the number of
its bytes (45_session.md R222). -/
theorem exec_of_overflow {i : Instr} {s' : State} {out : List Byte} (hc : consuming i = true) (ho : s.inOvf = false)
    (ha : allowedIn i s.session.phase = true) (hb : bodyOf i s = .done s' out)
    (hover : s.params.outCap < s.outBuf.length + out.length) :
    exec i s = .next (s.failedConsuming .outOverflow out.length) := by
  rw [exec_eq, runCommand_of_allowed (by simp [ho]) ha, hb, finish_overflow hover, State.fail_of_consuming hc]

/-- The output bytes of the parts (30_encoding.md R105). -/
def partBytes (parts : List (Bits × Symbol)) : List Byte := parts.map fun p => byteOfSymbol p.2

@[simp] theorem partBytes_length (parts : List (Bits × Symbol)) : (partBytes parts).length = parts.length :=
  List.length_map _

/-- The body of DECODE on an operand with a header, by the parse of the payload (44_decode.md R200). -/
theorem decodeBody_of_greedyParse (ht : TreeOk s.session) (hl : LeavesOk cap s.session) {h : Nat}
    (hu : unpackBytes s.inBuf = some (P, h)) (hP : GreedyParse s.session P parts rest) :
    decodeBody s = .done { s.withLengths P.length h with residual := decide (rest ≠ []) } (partBytes parts) := by
  simp only [decodeBody, hu, hP.decodePayload_eq ht hl, List.map_map, partBytes, Function.comp_def]

/-- DECODE of an operand with a header appends the symbols of the parse where they fit (44_decode.md R200, R204). -/
theorem exec_decode_of_greedyParse (hs : SessionOk cap s.session)
    (hp : s.session.phase = .built ∨ s.session.phase = .tabled) (ho : s.inOvf = false) {h : Nat}
    (hu : unpackBytes s.inBuf = some (P, h)) (hP : GreedyParse s.session P parts rest)
    (hfit : s.outBuf.length + parts.length ≤ s.params.outCap) :
    exec .decode s =
      .next { s.produced (partBytes parts) P.length h with residual := decide (rest ≠ []) } := by
  have hb : bodyOf .decode s = _ := decodeBody_of_greedyParse (hs.treeOk hp) (hs.leavesOk_of_tree hp) hu hP
  rw [exec_eq, runCommand_of_allowed (by simp [ho]) (by simpa [allowedIn] using hp), hb,
    finish_done (by rwa [partBytes_length]), State.commit_eq]
  rfl

/-- Settles O39: the walk's symbols and RESIDUAL are those of the payload's greedy parse. -/
theorem decodeIsGreedyParse : Obligations.DecodeIsGreedyParse := by
  intro s P h hinv hp ho hpos hle hB
  have ht := hinv.session.treeOk hp
  have hl := hinv.session.leavesOk_of_tree hp
  have hu := unpackBytes_of_header hpos hle ((unpackStream_eq_specUnpack s.inBuf).trans hB)
  obtain ⟨parts, rest, hP, -⟩ := decodePayload_greedyParse ht hl P
  refine ⟨parts, rest, hP.concat, hP.paths, hP.unfinished, exec_decode_of_greedyParse hinv.session hp ho hu hP,
    fun hover => ?_⟩
  rw [← partBytes_length] at hover ⊢
  exact exec_of_overflow rfl ho (by simpa [allowedIn] using hp) (decodeBody_of_greedyParse ht hl hu hP) hover

end Sys2Proof.Machine
end

section
/-! The round trip: the codes ENCODE packs are the greedy parse of its payload, so DECODE gives the source back, and
ANALYZE, BUILD_TREE and GEN_TABLE make a session that has a code for every symbol of the source (44_decode.md R208). -/

namespace Sys2Proof.Machine

variable {s t : State} {S : Session} {P : Bits} {sym : Symbol} {src : List Byte} {parts : List (Bits × Symbol)}

/-! A payload of ENCODE as a parse. -/

/-- A byte below 0x80 is the output byte of its symbol (30_encoding.md R96, R105). -/
theorem byteOfSymbol_symbolOf {x : Byte} (hx : outOfRange x = false) : byteOfSymbol (symbolOf x) = x := by
  have hlt : x.toNat < 0x80 := by simpa [outOfRange] using hx
  have hmod : x.toNat % 2 ^ 7 % 2 ^ 8 = x.toNat := by omega
  exact BitVec.eq_of_toNat_eq (by rwa [byteOfSymbol, symbolOf, BitVec.toNat_setWidth, BitVec.toNat_setWidth])

/-- A source with a payload is a list of coded symbols, and the payload is the concatenation of their codes
(43_pack.md R175). -/
theorem payloadOf_ok {j : Nat} (h : payloadOf S j src = .ok P) : ∃ parts : List (Bits × Symbol),
    P = (parts.map Prod.fst).flatten ∧ (∀ p ∈ parts, S.codeOf p.2 = some p.1) ∧ partBytes parts = src := by
  induction src generalizing j P with
  | nil => cases h; exact ⟨[], rfl, nofun, rfl⟩
  | cons x src ih =>
    rw [payloadOf] at h
    split at h
    · cases h
    · rename_i hx
      split at h
      · cases h
      · rename_i c hc
        split at h
        · rename_i Q hQ
          cases h
          obtain ⟨parts, rfl, hcodes, rfl⟩ := ih hQ
          exact ⟨(c, symbolOf x) :: parts, rfl, List.forall_mem_cons.mpr ⟨hc, hcodes⟩,
            congrArg (· :: _) (byteOfSymbol_symbolOf (by simpa using hx))⟩
        · cases h

/-- An ENCODE without an error has appended the packed payload of the source (43_pack.md R175, R181). -/
theorem exec_encode_success (he : exec .encode s = .next t) (herr : t.errCode = .none) :
    ∃ P, payloadOf s.session 0 s.inBuf = .ok P ∧
      t = s.produced (packBytes P) P.length (padOf P.length) := by
  obtain ⟨-, -, s', out, hb, -, rfl⟩ := exec_success he herr
  by_cases hne : s.inBuf = []
  · simp [bodyOf, encodeBody, hne] at hb
  · cases hP : payloadOf s.session 0 s.inBuf with
    | error e => exact nomatch (encodeBody_of_error hne hP).symm.trans hb
    | ok P =>
      cases (encodeBody_of_ok hne hP).symm.trans hb
      exact ⟨P, rfl, State.commit_withLengths rfl _ _ _ _⟩

/-- In phase TABLED a concatenation of codes parses into the codes, with no rest (44_decode.md R207, R208). -/
theorem Inv.greedyParse_of_codes (h : Inv s) (hp : s.session.phase = .tabled)
    (hP : P = (parts.map Prod.fst).flatten) (hcodes : ∀ p ∈ parts, s.session.codeOf p.2 = some p.1) :
    GreedyParse s.session P parts [] := by
  obtain ⟨hl, ht, -⟩ := h.session.tabled hp
  exact ⟨by rw [hP, List.append_nil], fun p hpm => (h.codeOf_iff hp).mp (hcodes p hpm), ht.unfinished_nil hl⟩

/-- Settles O40: in phase TABLED codes are paths to leaves, so the codes of the source are the greedy parse of the
payload, with no rest. -/
theorem decodeInvertsEncode : Obligations.DecodeInvertsEncode := by
  intro s t hinv hp he herr hfit
  obtain ⟨P, hP, rfl⟩ := exec_encode_success he herr
  obtain ⟨parts, hcat, hcodes, hsrc⟩ := payloadOf_ok hP
  have hparse := hinv.greedyParse_of_codes hp hcat hcodes
  have hu : unpackBytes ((s.outBuf ++ packBytes P).drop s.outBuf.length) = some (P, padOf P.length) := by
    rw [List.drop_left, unpackBytes_packBytes]
  have hroom : 0 + parts.length ≤ s.params.outCap := by rwa [Nat.zero_add, ← partBytes_length, hsrc]
  rw [← hsrc]
  exact exec_decode_of_greedyParse
    (s := { s.produced _ _ _ with inBuf := (s.outBuf ++ packBytes P).drop s.outBuf.length, outBuf := [] })
    hinv.session (.inr hp) rfl hu hparse hroom

/-! The session. -/

@[simp] theorem State.withTree_params (S : Session) (s : State) : (s.withTree S).params = s.params := rfl

@[simp] theorem State.withTree_inOvf (S : Session) (s : State) : (s.withTree S).inOvf = s.inOvf := rfl

@[simp] theorem State.withTable_params (T : Vector (Option Bits) 128) (s : State) :
    (s.withTable T).params = s.params := rfl

@[simp] theorem State.withTable_inOvf (T : Vector (Option Bits) 128) (s : State) :
    (s.withTable T).inOvf = s.inOvf := rfl

@[simp] theorem State.withTable_phase (T : Vector (Option Bits) 128) (s : State) :
    (s.withTable T).session.phase = .tabled := rfl

@[simp] theorem State.withTable_count (T : Vector (Option Bits) 128) (s : State) :
    (s.withTable T).session.count = s.session.count := rfl

/-- BUILD_TREE keeps the counts (41_tree.md R140). -/
theorem buildTree_count {S' : Session} (h : buildTree S = some S') : S'.count = S.count := by
  obtain ⟨q, -, -, rfl⟩ := buildTree_queuesOk h
  exact builtSession_count S q

/-- ANALYZE, BUILD_TREE and GEN_TABLE of a source of symbols succeed in turn: they leave the parameters, and a table
for the counts of the source (44_decode.md R208). -/
theorem Inv.exec_session (h : Inv s) (ho : s.inOvf = false) (hsrc : SourceOk s.inBuf) :
    ∃ s1 s2 s3, exec .analyze s = .next s1 ∧ exec .buildTree s1 = .next s2 ∧ exec .genTable s2 = .next s3 ∧
      Inv s3 ∧ s3.session.phase = .tabled ∧ s3.params = s.params ∧ s3.inOvf = false ∧
      s3.session.count = (analyzedSession s.inBuf).count := by
  have he1 := exec_analyze_of_sourceOk ho hsrc h.outBuf_le
  have h1 := exec_inv h he1
  obtain ⟨S, hS, he2⟩ := h1.exec_buildTree (by nofun)
  have h2 := exec_inv h1 he2
  have hp2 : (s.afterAnalyze.withTree S).session.phase = .built := buildTree_phase hS
  obtain ⟨T, hT⟩ := codeTable_some (h2.session.treeOk (.inl hp2)) (h2.session.leavesOk_of_tree (.inl hp2))
  have he3 := exec_genTable_of_some (.inl hp2) hT h2.outBuf_le
  have hcount : S.count = (analyzedSession s.inBuf).count := buildTree_count hS
  exact ⟨_, _, _, he1, he2, he3, exec_inv h2 he3, by simp, by simp [State.afterAnalyze, State.succeeded],
    by simp [State.afterAnalyze], by simpa using hcount⟩

/-- In phase TABLED every symbol that was counted has a code (40_analyze.md R122, 42_table.md R163). -/
theorem Inv.exists_codeOf (h : Inv s) (hp : s.session.phase = .tabled) (hc : s.session.countOf sym ≠ 0) :
    ∃ c, s.session.codeOf sym = some c := by
  obtain ⟨hl, ht, -⟩ := h.session.tabled hp
  have hcov := hl.covered sym.toNat sym.isLt
  rw [BitVec.ofNat_toNat, BitVec.setWidth_eq] at hcov
  obtain ⟨i, hi, hsym⟩ := hcov.resolve_left hc
  simp only [h.codeOf_iff hp]
  exact (ht.exists_isPathOf hl).mpr ⟨i, List.mem_range.mp hi, hsym⟩

/-- ANALYZE counts every symbol of the source (40_analyze.md R121). -/
theorem countOf_analyzedSession_ne_zero (h : SourceOk src) {x : Byte} (hx : x ∈ src) :
    (analyzedSession src).countOf (BitVec.ofNat 7 x.toNat) ≠ 0 := by
  intro h0
  have hlen := countOf_analyzedSession_toNat h.length_lt (h.symbols x hx)
  rw [h0] at hlen
  exact List.ne_nil_of_mem (List.mem_filter.mpr ⟨hx, by simp⟩) (List.length_eq_zero_iff.mp hlen.symm)

/-- ENCODE of a source whose symbols all have codes succeeds, or its output does not fit (43_pack.md R177, R222). -/
theorem exec_encode_of_codes (hp : s.session.phase = .tabled) (ho : s.inOvf = false) (hne : s.inBuf ≠ [])
    (hsym : ∀ x ∈ s.inBuf, x.toNat < 0x80)
    (hcodes : ∀ x ∈ s.inBuf, ∃ c, s.session.codeOf (BitVec.ofNat 7 x.toNat) = some c) :
    ∃ t, exec .encode s = .next t ∧ (t.errCode = .none ∨ t.errCode = .outOverflow) := by
  choose! f hf using hcodes
  have hcs : List.Forall₂ (fun x c => x.toNat < 0x80 ∧ s.session.codeOf (BitVec.ofNat 7 x.toNat) = some c)
      s.inBuf (s.inBuf.map f) :=
    List.forall₂_map_right_iff.mpr (List.forall₂_same.mpr fun x hx => ⟨hsym x hx, hf x hx⟩)
  have hb : bodyOf .encode s = packResult s (s.inBuf.map f).flatten := encodeBody_of_ok hne (payloadOf_eq_ok hcs 0)
  obtain hfit | hover := le_or_gt (s.outBuf.length + (packBytes (s.inBuf.map f).flatten).length) s.params.outCap
  · exact ⟨_, exec_of_done rfl ho (allowedIn_encode hp) hb hfit, .inl rfl⟩
  · exact ⟨_, exec_of_overflow rfl ho (allowedIn_encode hp) hb hover, .inr rfl⟩

/-- Settles O41: the table of the source's counts has a code for each of its symbols, so ENCODE can only overflow, and
where it does not DECODE inverts it. -/
theorem sessionRoundTrip : Obligations.SessionRoundTrip := by
  intro s h ho hne hsym hfit
  obtain ⟨hcap, -⟩ := h.caps_le
  have hsrc : SourceOk s.inBuf := ⟨hne, hsym, (h.inBuf_le.trans hcap).trans_lt (by norm_num)⟩
  obtain ⟨s1, s2, s3, he1, he2, he3, h3, hp, hpar, ho3, hcount⟩ := h.exec_session ho hsrc
  have hinv : Inv { s3 with inBuf := s.inBuf, outBuf := [] } :=
    { h3 with
      inBuf_le := hpar ▸ h.inBuf_le, outBuf_le := Nat.zero_le _, overflow := fun hov => by simp [ho3] at hov }
  have hcodes : ∀ x ∈ s.inBuf, ∃ c, s3.session.codeOf (BitVec.ofNat 7 x.toNat) = some c := fun x hx => by
    refine h3.exists_codeOf hp ?_
    rw [Session.countOf, hcount]
    exact countOf_analyzedSession_ne_zero hsrc hx
  obtain ⟨t, het, hcode⟩ :=
    exec_encode_of_codes (s := { s3 with inBuf := s.inBuf, outBuf := [] }) hp ho3 hne hsym hcodes
  refine ⟨s1, s2, s3, t, he1, he2, he3, hp, het, hcode, fun hnone => ?_⟩
  exact ⟨_, decodeInvertsEncode _ t hinv hp het hnone (hpar ▸ hfit), hnone, rfl, rfl⟩

end Sys2Proof.Machine
end

section
/-! The command frame seen from outside: how a command ends, what a completion writes, the operand it consumes and the
output it appends, and the commands NOP and CLEAR (45_session.md R220 to R225). -/

namespace Sys2Proof.Machine

variable {s t : State} {i : Instr}

/-! The core's step. -/

/-- A scheduled turn of the core is taken from the schedule first (log entry 4). -/
theorem step_scheduled_core (s : State) (rest : List Event) :
    step { s with schedule := .core :: rest } = coreTurn { s with schedule := rest } :=
  step_cons (s := { s with schedule := .core :: rest }) rfl

/-- Settles O4: scheduled or by default, the step is a turn of the core, which runs the command. -/
theorem stepRunsPendingCommand : Obligations.StepRunsPendingCommand := fun s _ hb hd =>
  ⟨fun rest => (step_scheduled_core s rest).trans (coreTurn_of_decode hb hd),
    (step_nil rfl).trans (coreTurn_of_decode hb hd)⟩

/-- Settles O5: scheduled or by default, the step is a turn of the core, which is idle. -/
theorem idleCoreMakesNoStep : Obligations.IdleCoreMakesNoStep := fun s hb =>
  ⟨fun rest => (step_scheduled_core s rest).trans (coreTurn_idle hb), (step_nil rfl).trans (coreTurn_idle hb)⟩

/-! How a command ends. -/

/-- A command that completes has failed with an error, or has committed its body's output (45_session.md R220). -/
theorem exec_fail_or_commit (he : exec i s = .next t) :
    (∃ code info, code ≠ .none ∧ t = s.fail i code info) ∨
      ∃ s' out, bodyOf i s = .done s' out ∧ t = s'.commit i out := by
  rw [exec_eq] at he
  obtain ⟨-, -, rfl⟩ | ⟨-, ⟨-, rfl⟩ | ⟨-, ⟨code, info, hb, rfl⟩ | ⟨s', out, hb, ⟨-, rfl⟩ | ⟨-, rfl⟩⟩⟩⟩ :=
    runCommand_cases he
  · exact .inl ⟨_, _, by decide, rfl⟩
  · exact .inl ⟨_, _, by decide, rfl⟩
  · exact .inl ⟨code, info, bodyOf_raise_ne_none hb, rfl⟩
  · exact .inl ⟨_, _, by decide, rfl⟩
  · exact .inr ⟨s', out, hb, rfl⟩

/-- Settles O10: a failure writes the completion fields and the operand alone, and a body that succeeds leaves the
host's fields. -/
theorem completionFields : Obligations.CompletionFields := by
  intro i s t he
  obtain ⟨code, info, hcode, rfl⟩ | ⟨s', out, hb, rfl⟩ := exec_fail_or_commit he
  · rw [State.fail_eq]
    exact ⟨rfl, rfl, fun h0 => absurd h0 hcode, rfl, rfl, rfl, rfl, rfl, rfl, rfl⟩
  · obtain ⟨hparams, hpending, hirq, -, -, hidx, hdraw, hschedule, hresponses⟩ := bodyOf_done_host hb
    rw [State.commit_eq]
    exact ⟨rfl, rfl, fun _ => rfl, hirq, hidx, hpending, hparams, hschedule, hresponses, hdraw⟩

/-! The operand. -/

/-- The model's consuming commands are those of 45_session.md R221. -/
theorem consuming_iff : consuming i = true ↔ IsConsuming i := by cases i <;> decide

/-- A consuming command empties InBuf and clears IN_OVF, whatever its outcome (45_session.md R221). -/
theorem exec_inBuf_of_consuming (hc : consuming i = true) (he : exec i s = .next t) :
    t.inBuf = [] ∧ t.inOvf = false := by
  obtain ⟨code, info, -, rfl⟩ | ⟨s', out, -, rfl⟩ := exec_fail_or_commit he
  · rw [State.fail_eq, hc]
    exact ⟨rfl, rfl⟩
  · rw [State.commit_eq, hc]
    exact ⟨rfl, rfl⟩

/-- A command that is neither consuming nor CLEAR leaves InBuf and IN_OVF, whatever its outcome (45_session.md R221). -/
theorem exec_inBuf_of_not_consuming (hc : consuming i = false) (hi : i ≠ .clear) (he : exec i s = .next t) :
    t.inBuf = s.inBuf ∧ t.inOvf = s.inOvf := by
  obtain ⟨code, info, -, rfl⟩ | ⟨s', out, hb, rfl⟩ := exec_fail_or_commit he
  · rw [State.fail_eq, hc]
    exact ⟨rfl, rfl⟩
  · obtain ⟨hin, -, hovf, -⟩ := bodyOf_done_buffers hi hb
    rw [State.commit_eq, hc]
    exact ⟨hin, hovf⟩

/-- A CLEAR without an error empties InBuf and clears IN_OVF (45_session.md R225). -/
theorem exec_clear_inBuf (he : exec .clear s = .next t) (herr : t.errCode = .none) :
    t.inBuf = [] ∧ t.inOvf = false := by
  obtain ⟨-, -, s', out, hb, -, rfl⟩ := exec_success he herr
  cases hb
  exact ⟨rfl, rfl⟩

/-- A word that names no command completes as `illegal` says (30_encoding.md R90, R93). -/
theorem coreTurn_of_isIllegalWord (hb : s.busy = true) (hw : IsIllegalWord s.pending) :
    coreTurn s = .next s.illegal := by
  obtain ⟨e, hd⟩ := (decode_eq_error_iff s.pending).mpr hw
  exact coreTurn_of_illegal hb hd

/-- Settles O12: the frame consumes exactly for the consuming commands, and only CLEAR's body touches the operand. -/
theorem consumingEmptiesInBuf : Obligations.ConsumingEmptiesInBuf := by
  refine ⟨fun i s t he => ⟨fun hi => exec_inBuf_of_consuming (consuming_iff.mpr hi) he, fun hi => ?_, ?_⟩,
    fun s t hb hw he => ?_⟩
  · obtain rfl | rfl | rfl := hi <;> exact exec_inBuf_of_not_consuming rfl (by decide) he
  · rintro rfl herr
    exact exec_clear_inBuf he herr
  · rw [coreTurn_of_isIllegalWord hb hw] at he
    cases he
    exact ⟨rfl, rfl⟩

/-! The output. -/

/-- `s` with another OutBuf and other parameters. -/
def State.withOut (B : List Byte) (p : Params) (s : State) : State := { s with outBuf := B, params := p }

/-- A body's result with that replacement made in its working copy. -/
def BodyResult.withOut (B : List Byte) (p : Params) : BodyResult → BodyResult
  | .done s out => .done (s.withOut B p) out
  | .raise code info => .raise code info
  | .stuck f => .stuck f

/-- The bodies of ENCODE, PACK, UNPACK and DECODE read neither OutBuf nor the parameters, and write neither: emission
and the capacity are the frame's (45_session.md R220, R222). -/
theorem bodyOf_withOut (hi : i = .encode ∨ i = .pack ∨ i = .unpack ∨ i = .decode) (B : List Byte) (p : Params)
    (s : State) : bodyOf i (s.withOut B p) = (bodyOf i s).withOut B p := by
  obtain rfl | rfl | rfl | rfl := hi <;> simp only [bodyOf]
  · by_cases hne : s.inBuf = []
    · rw [encodeBody, encodeBody, if_pos hne, if_pos (show (s.withOut B p).inBuf = [] from hne)]
      rfl
    · cases hP : payloadOf s.session 0 s.inBuf with
      | ok P => rw [encodeBody_of_ok hne hP, encodeBody_of_ok (s := s.withOut B p) hne hP]; rfl
      | error e => rw [encodeBody_of_error hne hP, encodeBody_of_error (s := s.withOut B p) hne hP]; rfl
  · unfold packBody
    cases hscan : s.inBuf.findIdx? notBitChar <;> simp only [State.withOut, hscan] <;> rfl
  · unfold unpackBody
    cases hu : unpackBytes s.inBuf <;> simp only [State.withOut, hu] <;> rfl
  · unfold decodeBody
    cases hu : unpackBytes s.inBuf with
    | none => simp only [State.withOut, hu]; rfl
    | some r =>
      cases hw : decodePayload s.session.node s.session.root.toNat r.1 <;> simp only [State.withOut, hu, hw] <;> rfl

/-- What a success with an empty OutBuf says of the command on the state itself: the frame's checks pass, and the body
gives the same output and the same working copy (45_session.md R220, R222). -/
theorem exec_withOut_success (hi : i = .encode ∨ i = .pack ∨ i = .unpack ∨ i = .decode) {p : Params}
    (he : exec i (s.withOut [] p) = .next t) (herr : t.errCode = .none) :
    (consuming i && s.inOvf) = false ∧ allowedIn i s.session.phase = true ∧
      ∃ (s' : State) (out : List Byte), bodyOf i s = .done (s'.withOut s.outBuf s.params) out ∧
        t.outBuf = out ∧ t = s'.commit i out := by
  have hclear : i ≠ .clear := by rintro rfl; simp at hi
  obtain ⟨ho, ha, s', out, hb, -, rfl⟩ := exec_success he herr
  obtain ⟨-, hempty, -, -⟩ := bodyOf_done_buffers hclear hb
  refine ⟨ho, ha, s', out, ?_, by rw [State.commit_eq, hempty]; rfl, rfl⟩
  calc bodyOf i s = bodyOf i ((s.withOut [] p).withOut s.outBuf s.params) := rfl
    _ = .done (s'.withOut s.outBuf s.params) out := by rw [bodyOf_withOut hi, hb]; rfl

/-- Settles O14: the body that succeeds with an empty OutBuf gives the same output behind any OutBuf, and the frame
appends it where it fits. -/
theorem outputFitsOrOverflows : Obligations.OutputFitsOrOverflows := by
  intro i s u K hi hu herr
  have hc : consuming i = true := consuming_iff.mpr (.inr hi)
  obtain ⟨ho, ha, s', out, hb, hout, rfl⟩ := exec_withOut_success (s := s) hi hu herr
  rw [hout]
  refine ⟨fun hfit => ?_, exec_of_overflow hc (by simpa [hc] using ho) ha hb⟩
  rw [exec_eq, runCommand_of_allowed ho ha, hb, finish_done hfit, State.commit_eq, State.commit_eq]
  rfl

/-! NOP and CLEAR. -/

/-- A command that is not consuming and has no output commits its working copy, completed (45_session.md R220, R222). -/
theorem exec_of_done_silent {s' : State} (hc : consuming i = false) (ha : allowedIn i s.session.phase = true)
    (hb : bodyOf i s = .done s' []) (hfit : s.outBuf.length ≤ s.params.outCap) :
    exec i s = .next s'.succeeded := by
  rw [exec_eq, runCommand_of_allowed (by simp [hc]) ha, hb, finish_done (by simpa using hfit), State.commit_eq, hc,
    List.append_nil]
  rfl

/-- Settles O16: NOP may run in every phase, and commits the state it found with no output. -/
theorem nopOnlyCompletes : Obligations.NopOnlyCompletes := fun s hfit =>
  ⟨exec_of_done_silent rfl rfl rfl hfit, fun hirq => by simp [State.irq, State.succeeded, hirq]⟩

/-- No symbol is counted in the empty session (70_reset_and_hazards.md R261). -/
@[simp] theorem Session.countOf_empty (c : Symbol) : Session.empty.countOf c = 0 := by
  have hc : c.toNat < 128 := c.isLt
  simp [Session.countOf, Session.empty, hc]

/-- No symbol has a code in the empty session (70_reset_and_hazards.md R261). -/
@[simp] theorem Session.codeOf_empty (c : Symbol) : Session.empty.codeOf c = none := by
  have hc : c.toNat < 128 := c.isLt
  simp [Session.codeOf, Session.empty, hc]

/-- No slot holds a node in the empty session (70_reset_and_hazards.md R261). -/
@[simp] theorem Session.slot_empty (k : Nat) : Session.empty.slot k = NodeSlot.empty := by
  by_cases hk : k < 255
  · simp [Session.slot, slotAt, Session.empty, hk]
  · exact slotAt_of_ge _ (Nat.le_of_not_lt hk)

/-- Wherever IDX points after CLEAR, the windows show what they show after a reset (10_state.md R60, R63; 45_session.md
R225). -/
theorem registerValue_cleared (s : State) {r : Register} (hctrl : r ≠ .ctrl) (hindex : r ≠ .index)
    (hstatus : r ≠ .status) :
    s.cleared.succeeded.registerValue r = (State.resetWith s.params).registerValue r := by
  have hS : s.cleared.succeeded.session = Session.empty := rfl
  have hR : (State.resetWith s.params).session = Session.empty := rfl
  cases r
  case ctrl => exact absurd rfl hctrl
  case index => exact absurd rfl hindex
  case status => exact absurd rfl hstatus
  case freqCount | nodeInfo | nodeWeight | codeLen | codeBits0 | codeBits1 | codeBits2 | codeBits3 =>
    simp only [State.registerValue, State.windowSlot, hS, hR, Session.countOf_empty, Session.codeOf_empty,
      Session.slot_empty]
  all_goals rfl

/-- After CLEAR STATUS shows DONE alone (10_state.md R43, 45_session.md R225). -/
theorem statusWord_cleared (s : State) : s.cleared.succeeded.statusWord = 0x2#32 := by
  apply BitVec.eq_of_toNat_eq
  rw [State.statusWord_toNat]
  rfl

/-- Settles O17: the state after CLEAR is the cleared one, whose session is the empty one. -/
theorem clearEndsSession : Obligations.ClearEndsSession := fun s hfit =>
  ⟨s.cleared.succeeded, exec_of_done_silent rfl rfl rfl hfit, rfl, rfl, rfl, rfl, rfl,
    fun c => ⟨Session.countOf_empty c, Session.codeOf_empty c⟩, fun k _ => Session.slot_empty k,
    fun _ hctrl hindex hstatus => registerValue_cleared s hctrl hindex hstatus, statusWord_cleared s⟩

end Sys2Proof.Machine
end

section
/-! How a command fails: the errors each command raises, what a failure leaves unchanged, and the phases commands may
run in and leave behind (60_exceptions.md R230 to R240). -/

namespace Sys2Proof.Machine

variable {s s' t : State} {i : Instr} {p : Phase} {code : ErrorCode} {info : Word} {out : List Byte}

/-! ILLEGAL_COMMAND and IN_OVERFLOW. -/

/-- Settles O3: the scheduled turn of the core finds a word that decodes to no command. -/
theorem illegalWordCompletes : Obligations.IllegalWordCompletes := fun s rest hb hw =>
  (step_scheduled_core s rest).trans (coreTurn_of_isIllegalWord (s := { s with schedule := rest }) hb hw)

/-- Settles O7: IN_OVERFLOW is the first check of the frame. -/
theorem overflowedInputFails : Obligations.OverflowedInputFails := by
  intro i s hi ho
  have hc := consuming_iff.mpr hi
  rw [exec_eq, runCommand_of_overflow hc ho]
  exact congrArg _ (State.fail_of_consuming hc .inOverflow 0)

/-! What a failure leaves. -/

/-- A command that completes with an error has failed: a commit writes NONE (45_session.md R220). -/
theorem exec_failure (he : exec i s = .next t) (herr : t.errCode ≠ .none) : ∃ code info, t = s.fail i code info := by
  obtain ⟨code, info, -, rfl⟩ | ⟨s', out, -, rfl⟩ := exec_fail_or_commit he
  · exact ⟨code, info, rfl⟩
  · exact absurd rfl herr

/-- Settles O11: a command that ends in an error has failed, and a failure consumes exactly for the consuming
commands. -/
theorem failureIsPrecise : Obligations.FailureIsPrecise := by
  intro i s t he herr
  obtain ⟨code, info, rfl⟩ := exec_failure he herr
  rw [State.fail_eq]
  refine ⟨fun hi => ?_, fun hi => ?_⟩
  · rw [consuming_iff.mpr hi]; rfl
  · rw [Bool.eq_false_iff.mpr (consuming_iff.not.mpr hi)]; rfl

/-! The errors of the bodies. -/

/-- The errors each command's body checks for, in the order of its checks (60_exceptions.md R237, item 4). -/
def bodyErrors : Instr → List ErrorCode
  | .analyze => [.emptySource, .symbolRange]
  | .encode => [.emptySource, .symbolRange, .unassignedSymbol]
  | .pack => [.invalidBitChar]
  | .unpack => [.headerNotFound]
  | .decode => [.headerNotFound]
  | .nop | .clear | .buildTree | .genTable => []

/-- A body raises no other error (60_exceptions.md R237). -/
theorem bodyOf_raise_mem (h : bodyOf i s = .raise code info) : code ∈ bodyErrors i := by
  cases i <;> simp only [bodyOf] at h
  case nop => cases h
  case clear => cases h
  case analyze =>
    unfold analyzeBody at h
    split at h
    · cases h; decide
    · split at h <;> cases h; decide
  case buildTree => unfold buildTreeBody at h; split at h <;> cases h
  case genTable => unfold genTableBody at h; split at h <;> cases h
  case encode => obtain rfl | rfl | rfl := encodeBody_raise h <;> decide
  case pack => unfold packBody packResult at h; split at h <;> cases h; decide
  case unpack => unfold unpackBody at h; split at h <;> cases h; decide
  case decode =>
    unfold decodeBody at h
    split at h
    · cases h; decide
    · split at h <;> cases h

/-- R230 names a command for each error its body checks for. -/
theorem mem_raisedBy_of_mem_bodyErrors (i : Instr) : ∀ code ∈ bodyErrors i, i ∈ raisedBy code := by
  cases i <;> decide

/-- SEQUENCE is the frame's error, never a body's (60_exceptions.md R237). -/
theorem sequence_notMem_bodyErrors (i : Instr) : .sequence ∉ bodyErrors i := by cases i <;> decide

/-! The bodies that succeed. -/

/-- The last column of the table of 60_exceptions.md R240. -/
def phaseColumn : Instr → Phase → Phase
  | .clear, _ => .empty
  | .analyze, _ => .analyzed
  | .buildTree, _ => .built
  | .genTable, _ => .tabled
  | .nop, p | .encode, p | .pack, p | .unpack, p | .decode, p => p

/-- The table of R240 read row by row: the phases a command may run in, and its last column. -/
theorem phaseAfter_eq (i : Instr) (p : Phase) :
    phaseAfter i p = if allowedIn i p then some (phaseColumn i p) else none := by
  cases i <;> cases p <;> rfl

/-- Where the table has a phase, the command is allowed (60_exceptions.md R240). -/
theorem allowedIn_of_phaseAfter (h : phaseAfter i p ≠ none) : allowedIn i p = true := by
  by_contra ha
  exact h ((phaseAfter_eq i p).trans (if_neg ha))

/-- A body that succeeds leaves the phase of the table's last column (60_exceptions.md R240), and has an output only
where R230 lets the command overflow OutBuf. -/
theorem bodyOf_done_phase_out (h : bodyOf i s = .done s' out) :
    s'.session.phase = phaseColumn i s.session.phase ∧ (out = [] ∨ i ∈ raisedBy .outOverflow) := by
  cases i <;> simp only [bodyOf] at h
  case nop => cases h; exact ⟨rfl, .inl rfl⟩
  case clear => cases h; exact ⟨rfl, .inl rfl⟩
  case analyze =>
    unfold analyzeBody at h
    split at h
    · cases h
    · split at h <;> cases h; exact ⟨rfl, .inl rfl⟩
  case buildTree =>
    unfold buildTreeBody at h
    split at h
    · rename_i S hS
      cases h
      exact ⟨buildTree_phase hS, .inl rfl⟩
    · cases h
  case genTable => unfold genTableBody at h; split at h <;> cases h; exact ⟨rfl, .inl rfl⟩
  case encode =>
    unfold encodeBody packResult at h
    split at h
    · cases h
    · split at h <;> cases h; exact ⟨rfl, .inr (by decide)⟩
  case pack => unfold packBody packResult at h; split at h <;> cases h; exact ⟨rfl, .inr (by decide)⟩
  case unpack => unfold unpackBody at h; split at h <;> cases h; exact ⟨rfl, .inr (by decide)⟩
  case decode =>
    unfold decodeBody at h
    split at h
    · cases h
    · split at h <;> cases h; exact ⟨rfl, .inr (by decide)⟩

/-! The tables of errors and phases. -/

/-- A command that is allowed does not fail with SEQUENCE (60_exceptions.md R240). -/
theorem exec_ne_sequence (ha : allowedIn i s.session.phase = true) (he : exec i s = .next t) :
    t.errCode ≠ .sequence := by
  rw [exec_eq] at he
  obtain ⟨-, -, rfl⟩ | ⟨-, ⟨hna, -⟩ | ⟨-, ⟨code, info, hb, rfl⟩ | ⟨s', out, -, ⟨-, rfl⟩ | ⟨-, rfl⟩⟩⟩⟩ :=
    runCommand_cases he
  · nofun
  · rw [ha] at hna; cases hna
  · rintro rfl
    exact sequence_notMem_bodyErrors i (bodyOf_raise_mem hb)
  · nofun
  · nofun

/-- Settles O9: a success passed the phase check and its body left the table's phase, a failure leaves the session, and
SEQUENCE is raised by the phase check alone. -/
theorem phasesFollowTable : Obligations.PhasesFollowTable := by
  intro i s t he
  refine ⟨fun herr => ?_, fun herr => ?_, fun ha => exec_ne_sequence (allowedIn_of_phaseAfter ha) he⟩
  · obtain ⟨-, ha, s', out, hb, -, rfl⟩ := exec_success he herr
    obtain ⟨hphase, -⟩ := bodyOf_done_phase_out hb
    rw [phaseAfter_eq, if_pos ha, State.commit_session, hphase]
  · obtain ⟨code, info, rfl⟩ := exec_failure he herr
    exact State.fail_session s i code info

/-- The commands R240 shuts out of a phase are those R230 names for SEQUENCE. -/
theorem mem_raisedBy_sequence (h : allowedIn i p = false) : i ∈ raisedBy .sequence := by
  cases i with
  | buildTree | genTable | encode | decode => decide
  | nop | clear | analyze | pack | unpack => cases h

/-- Settles O13, by the way the command ended: the frame's two first checks, the body's own errors, an output that
does not fit, and a success. -/
theorem errorCodesByCommand : Obligations.ErrorCodesByCommand := by
  intro i s t hfit he
  rw [exec_eq] at he
  obtain ⟨hc, -, rfl⟩ | ⟨-, ⟨hna, rfl⟩ | ⟨-, ⟨code, info, hb, rfl⟩ | ⟨s', out, hb, ⟨hover, rfl⟩ | ⟨-, rfl⟩⟩⟩⟩ :=
    runCommand_cases he
  · simpa [raisedBy] using consuming_iff.mp hc
  · exact mem_raisedBy_sequence hna
  · exact mem_raisedBy_of_mem_bodyErrors i code (bodyOf_raise_mem hb)
  · obtain ⟨-, rfl | hi⟩ := bodyOf_done_phase_out hb
    · exact absurd hover (Nat.not_lt.mpr hfit)
    · exact hi
  · rw [State.commit_errCode]
    cases i <;> decide

end Sys2Proof.Machine
end

section
/-! The interrupt line: what each event does to it (60_exceptions.md R245). -/

namespace Sys2Proof.Machine

variable {s t : State}

/-- A turn of the core leaves the line, or is a completion, which sets DONE and leaves IRQ_EN (60_exceptions.md R235,
R245). -/
theorem coreTurn_irq_cases (ht : coreTurn s = .next t) : t.irq = s.irq ∨ s.busy = true ∧ t.irq = s.irqEn := by
  obtain ⟨-, rfl⟩ | ⟨hb, i, -, he⟩ | ⟨hb, -, rfl⟩ := coreTurn_cases ht
  · exact .inl rfl
  · obtain ⟨-, hdone, -, hirqEn, -⟩ := completionFields i s t he
    exact .inr ⟨hb, by rw [State.irq, hdone, hirqEn, Bool.and_true]⟩
  · exact .inr ⟨hb, Bool.and_true _⟩

/-- A host read leaves the line. -/
@[simp] theorem hostRead_irq (addr : Nat) (s : State) : (hostRead addr s).irq = s.irq := by
  have read : ∀ off, (busRead off s).2.irq = s.irq := fun off => by
    obtain he | he | ⟨-, he | he⟩ := busRead_state_cases off s <;> rw [he] <;> rfl
  unfold hostRead
  cases offsetOf s.params addr with
  | none => rfl
  | some off => exact read off

/-- Everything a register write can do to the line: only CTRL, STATUS and an accepted CMD write reach it
(60_exceptions.md R245). -/
theorem writeRegister_irq (r : Register) (v : Word) (s : State) :
    (writeRegister r v s).irq = s.irq ∨
    r = .ctrl ∧ (writeRegister r v s).irq = (v.toNat.testBit 0 && s.done) ∨
    r = .status ∧ (writeRegister r v s).irq = (s.irq && !v.toNat.testBit 1) ∨
    r = .cmd ∧ s.busy = false ∧ (writeRegister r v s).irq = false := by
  cases r with
  | ctrl => exact .inr (.inl ⟨rfl, rfl⟩)
  | status => exact .inr (.inr (.inl ⟨rfl, (Bool.and_assoc _ _ _).symm⟩))
  | cmd =>
    rw [writeRegister]
    obtain ⟨-, he⟩ | ⟨hb, he⟩ := State.writeCmd_cases v s <;> rw [he]
    · exact .inl rfl
    · exact .inr (.inr (.inr ⟨rfl, hb, Bool.and_false _⟩))
  | dataIn =>
    rw [writeRegister]
    obtain ⟨-, he⟩ | ⟨-, -, he⟩ | ⟨-, -, he⟩ := State.writeDataIn_cases v s <;> rw [he] <;> exact .inl rfl
  | _ => exact .inl rfl

/-- Everything a host write can do to the line, by the address it is made at (60_exceptions.md R245). -/
theorem hostWrite_irq (addr : Nat) (v : Word) (s : State) :
    (hostWrite addr v s).irq = s.irq ∨
    addr = s.params.base + 0x04 ∧ (hostWrite addr v s).irq = (v.toNat.testBit 0 && s.done) ∨
    addr = s.params.base + 0x08 ∧ (hostWrite addr v s).irq = (s.irq && !v.toNat.testBit 1) ∨
    addr = s.params.base + 0x0C ∧ s.busy = false ∧ (hostWrite addr v s).irq = false := by
  obtain hlow | hbase := Nat.lt_or_ge addr s.params.base
  · rw [hostWrite_below hlow]
    exact .inl rfl
  · obtain ⟨off, rfl⟩ := Nat.exists_eq_add_of_le hbase
    rw [hostWrite_base_add]
    cases hr : registerAt off with
    | none => exact .inl (by rw [busWrite, hr])
    | some r =>
      rw [busWrite_of_registerAt hr]
      obtain rfl := registerAt_eq_some hr
      obtain hirq | ⟨rfl, hirq⟩ | ⟨rfl, hirq⟩ | ⟨rfl, hirq⟩ := writeRegister_irq r v s
      · exact .inl hirq
      · exact .inr (.inl ⟨rfl, hirq⟩)
      · exact .inr (.inr (.inl ⟨rfl, hirq⟩))
      · exact .inr (.inr (.inr ⟨rfl, hirq⟩))

/-- The step is a turn of the core (log entry 4). -/
abbrev CoreIsNext (s : State) : Prop := s.schedule = [] ∨ ∃ rest, s.schedule = .core :: rest

/-- Everything a step can do to the line (60_exceptions.md R245). -/
theorem step_irq_cases (ht : step s = .next t) :
    t.irq = s.irq ∨ (s.busy = true ∧ CoreIsNext s ∧ t.irq = s.irqEn) ∨
    ∃ rest, (s.schedule = .reset :: rest ∧ t.irq = false) ∨ ∃ v,
      (s.schedule = .busWrite (s.params.base + 0x04) v :: rest ∧ t.irq = (v.toNat.testBit 0 && s.done)) ∨
      (s.schedule = .busWrite (s.params.base + 0x08) v :: rest ∧ t.irq = (s.irq && !v.toNat.testBit 1)) ∨
      (s.schedule = .busWrite (s.params.base + 0x0C) v :: rest ∧ s.busy = false ∧ t.irq = false) := by
  obtain ⟨hs, hc⟩ | ⟨rest, ⟨hs, hc⟩ | ⟨hs, rfl⟩ | ⟨addr, -, rfl⟩ | ⟨addr, v, hs, rfl⟩⟩ := step_cases ht
  · exact (coreTurn_irq_cases hc).imp id fun ⟨hb, hirq⟩ => .inl ⟨hb, .inl hs, hirq⟩
  · exact (coreTurn_irq_cases hc).imp id fun ⟨hb, hirq⟩ => .inl ⟨hb, .inr ⟨rest, hs⟩, hirq⟩
  · exact .inr (.inr ⟨rest, .inl ⟨hs, rfl⟩⟩)
  · exact .inl (hostRead_irq addr _)
  · obtain hirq | ⟨rfl, hirq⟩ | ⟨rfl, hirq⟩ | ⟨rfl, hirq⟩ := hostWrite_irq addr v { s with schedule := rest }
    · exact .inl hirq
    · exact .inr (.inr ⟨rest, .inr ⟨v, .inl ⟨hs, hirq⟩⟩⟩)
    · exact .inr (.inr ⟨rest, .inr ⟨v, .inr (.inl ⟨hs, hirq⟩)⟩⟩)
    · exact .inr (.inr ⟨rest, .inr ⟨v, .inr (.inr ⟨hs, hirq⟩)⟩⟩)

/-- Settles O55, by what the step did to the line. -/
theorem interruptLineChanges : Obligations.InterruptLineChanges := by
  intro s t ht
  have enabled : s.irq = true → s.irqEn = true ∧ s.done = true := by simp [State.irq]
  obtain hirq | ⟨hb, hcore, hirq⟩ | ⟨rest, ⟨hs, hirq⟩ | ⟨v, ⟨hs, hirq⟩ | ⟨hs, hirq⟩ | ⟨hs, hb, hirq⟩⟩⟩ :=
    step_irq_cases ht <;> rw [hirq]
  · exact ⟨fun h1 h0 => by simp [h1] at h0, fun h0 h1 => by simp [h0] at h1⟩
  · exact ⟨fun h1 h0 => by simp [enabled h1] at h0, fun _ h1 => .inl ⟨hb, h1, hcore⟩⟩
  · exact ⟨fun _ _ => ⟨rest, .inl hs⟩, nofun⟩
  · refine ⟨fun h1 h0 => ⟨rest, .inr (.inr (.inr ⟨v, hs, ?_⟩))⟩, fun _ h1 => .inr ⟨rest, v, hs, ?_⟩⟩
    · rwa [(enabled h1).2, Bool.and_true] at h0
    · rwa [Bool.and_eq_true] at h1
  · refine ⟨fun h1 h0 => ⟨rest, .inr (.inl ⟨v, hs, ?_⟩)⟩, fun h0 h1 => by simp [h0] at h1⟩
    simpa [h1] using h0
  · exact ⟨fun _ _ => ⟨rest, .inr (.inr (.inl ⟨v, hs, hb⟩))⟩, nofun⟩

end Sys2Proof.Machine
end

section
/-! Commands out of phase order, and the state after a reset (70_reset_and_hazards.md R260, R261, R266). -/

namespace Sys2Proof.Machine

variable {s : State} {i : Instr} {p : Phase}

/-! Commands out of phase order. -/

/-- Where the table of 60_exceptions.md R240 has no phase, the frame's phase check shuts the command out. -/
theorem phaseAfter_eq_none_iff : phaseAfter i p = none ↔ allowedIn i p = false := by
  rw [phaseAfter_eq]
  cases allowedIn i p <;> simp

/-- ERR_INFO of SEQUENCE is the number of the phase (60_exceptions.md R231, 10_state.md R24). -/
theorem phaseBits_setWidth (p : Phase) : (phaseBits p).setWidth 32 = BitVec.ofNat 32 (phaseNumber p) := by
  cases p <;> rfl

/-- A command that is not consuming and fails leaves the operand (60_exceptions.md R235). -/
theorem State.fail_of_not_consuming (hc : consuming i = false) (code : ErrorCode) (info : Word) :
    s.fail i code info = { s with errCode := code, errInfo := info, busy := false, done := true } := by
  rw [State.fail_eq, hc]; rfl

/-- Past the IN_OVERFLOW check, a command out of phase order fails with SEQUENCE and the phase (60_exceptions.md R237,
R240). -/
theorem exec_of_not_allowed (ho : (consuming i && s.inOvf) = false) (ha : phaseAfter i s.session.phase = none) :
    exec i s = .next (s.fail i .sequence (BitVec.ofNat 32 (phaseNumber s.session.phase))) := by
  rw [exec_eq, runCommand_of_not_allowed ho (phaseAfter_eq_none_iff.mp ha), phaseBits_setWidth]

/-- Settles O8: the phase check fails the command, which consumes exactly if it is consuming. -/
theorem disallowedPhaseFails : Obligations.DisallowedPhaseFails := by
  intro i s ha
  refine ⟨fun hi ho => ?_, fun hi => ?_⟩
  · rw [exec_of_not_allowed (by simp [ho]) ha, State.fail_of_consuming (consuming_iff.mpr hi)]
  · have hc : consuming i = false := Bool.eq_false_iff.mpr (consuming_iff.not.mpr hi)
    rw [exec_of_not_allowed (by simp [hc]) ha, State.fail_of_not_consuming hc]

/-! Reset. -/

/-- A scheduled reset is taken from the schedule first, and performed whatever BUSY is (70_reset_and_hazards.md R260;
log entry 4). -/
theorem step_scheduled_reset (s : State) (rest : List Event) :
    step { s with schedule := .reset :: rest } = .next (resetEvent { s with schedule := rest }) :=
  step_cons (s := { s with schedule := .reset :: rest }) rfl

/-- After a reset STATUS shows nothing (10_state.md R43, 70_reset_and_hazards.md R261). -/
theorem statusWord_resetEvent (s : State) : (resetEvent s).statusWord = 0 := by
  apply BitVec.eq_of_toNat_eq
  rw [State.statusWord_toNat]
  rfl

/-- After a reset every register reads 0 but ID and the two capacities (10_state.md R34, 70_reset_and_hazards.md
R261). -/
theorem registerValue_resetEvent (s : State) (r : Register) : (resetEvent s).registerValue r =
    if r = .id then 0x48554646#32
    else if r = .inCap then BitVec.ofNat 32 s.params.inCap
    else if r = .outCap then BitVec.ofNat 32 s.params.outCap
    else 0 := by
  have hS : (resetEvent s).session = Session.empty := rfl
  cases r
  case ctrl => exact (by decide : 0#31 ++ BitVec.ofBool false = 0#32)
  case status => exact statusWord_resetEvent s
  case freqCount => exact Session.countOf_empty _
  case nodeInfo | nodeWeight =>
    rw [State.registerValue, State.windowSlot, hS, Session.slot_empty]
    rfl
  case codeLen | codeBits0 | codeBits1 | codeBits2 | codeBits3 =>
    rw [State.registerValue, hS, Session.codeOf_empty]
    rfl
  all_goals rfl

/-- Settles O54: the scheduled reset leaves the reset state of the same parameters, whose session is the empty one. -/
theorem resetRestoresAll : Obligations.ResetRestoresAll := fun s rest =>
  ⟨resetEvent { s with schedule := rest }, step_scheduled_reset s rest,
    fun c => ⟨Session.countOf_empty c, Session.codeOf_empty c⟩, rfl, rfl, rfl, fun k _ => Session.slot_empty k,
    rfl, rfl, rfl, rfl, rfl, rfl, rfl, rfl, rfl, rfl, rfl, rfl, rfl, rfl, rfl, rfl, rfl,
    registerValue_resetEvent _, rfl, rfl, rfl⟩

/-- The reset state of an instance meets the invariant: the session and the buffers are empty, no command is pending,
and the parameters are the instance's own (70_reset_and_hazards.md R261). -/
theorem resetWith_inv {p : Params} (h : p.wf = true) : Inv (State.resetWith p) where
  params := h
  inBuf_le := Nat.zero_le _
  outBuf_le := Nat.zero_le _
  session := rfl
  busy_done := nofun
  overflow := nofun
  no_info := fun _ => rfl
  payload_lt := Nat.two_pow_pos 31
  padding_le := Nat.zero_le 8
  aligned := rfl

/-- Settles O57: the reference parameters of `State.reset` meet their constraints like any others. -/
theorem resetStateInv : Obligations.ResetStateInv := ⟨resetWith_inv (by decide), fun _ => resetWith_inv⟩

end Sys2Proof.Machine
end
